-- ==== Sys2Proof/Word.lean ====
section
/-! DEFINITION. The widths of the machine (00_scope.md R7): bytes, 16-bit words, 3-bit operand codes. -/

namespace Sys2Proof

/-- One byte: a general register, the flag register, a memory cell, an opcode (R7, R85). -/
abbrev Byte := BitVec 8

/-- One 16-bit word: PC, SP, a pair view, a bus address (R7). -/
abbrev Word := BitVec 16

/-- A 3-bit operand code, the register selector of the instruction word (R7, R26, R111). -/
abbrev Code := BitVec 3

end Sys2Proof
end

