-- ==== Sys2Proof/Syntax.lean ====
section
/-! DEFINITION. The instructions, one constructor per row of spec/opcode_table.json, and the operand tags and operation
descriptors the Decoder hands to the Execution Engine (30_encoding.md R114, R119). -/

namespace Sys2Proof

/-- The seven general registers (10_state.md R21). The flag register F is not among them: no operand code selects it (R26). -/
inductive Reg8 where
  | b | c | d | e | h | l | a
deriving DecidableEq, Repr

/-- The four pair views, selected by name (10_state.md R24, R28). -/
inductive Pair where
  | af | bc | de | hl
deriving DecidableEq, Repr

/-- The four flag bits (10_state.md R23). -/
inductive Flag where
  | z | n | h | c
deriving DecidableEq, Repr

/-- The instructions. The seven loads are the mapped opcodes of R115. The other seven rows of the table are the bit
patterns of the 249 unmapped opcodes (R116); each carries the raw opcode byte, which the error reports (R191), and
`WellFormed` says the byte has the row's pattern. The last row is the single byte 0x76. -/
inductive Instr where
  /-- `LD B,(HL)`, row LD_B__HL, R171. -/
  | ldBHl
  /-- `LD C,(HL)`, row LD_C__HL, R172. -/
  | ldCHl
  /-- `LD D,(HL)`, row LD_D__HL, R173. -/
  | ldDHl
  /-- `LD E,(HL)`, row LD_E__HL, R174. -/
  | ldEHl
  /-- `LD H,(HL)`, row LD_H__HL, R175. -/
  | ldHHl
  /-- `LD L,(HL)`, row LD_L__HL, R176. -/
  | ldLHl
  /-- `LD A,(HL)`, row LD_A__HL, R177. -/
  | ldAHl
  /-- UNIMPLEMENTED, pattern `00xxxxxx` (R116, R191). -/
  | unimplBlk00 (opcode : Byte)
  /-- UNIMPLEMENTED, pattern `10xxxxxx` (R116, R191). -/
  | unimplBlk10 (opcode : Byte)
  /-- UNIMPLEMENTED, pattern `11xxxxxx` (R116, R191). -/
  | unimplBlk11 (opcode : Byte)
  /-- UNIMPLEMENTED, pattern `01xxx0xx`: source codes 000 to 011 (R116, R191). -/
  | unimplBlk01Src0 (opcode : Byte)
  /-- UNIMPLEMENTED, pattern `01xxx10x`: source codes 100 and 101 (R116, R191). -/
  | unimplBlk01Src4 (opcode : Byte)
  /-- UNIMPLEMENTED, pattern `01xxx111`: source code 111 (R116, R191). -/
  | unimplBlk01Src7 (opcode : Byte)
  /-- UNIMPLEMENTED, the byte 0x76 (R115, R116, R191). -/
  | unimpl76
deriving DecidableEq, Repr

/-- Operand tags (R114): a register by its 3-bit code, the byte of memory at HL, or an immediate. -/
inductive Operand where
  | reg (code : Code)
  | indirectHl
  | imm
deriving DecidableEq, Repr

/-- Operation kinds (R119): 8-bit load is the only one in scope. -/
inductive OpKind where
  | load8
deriving DecidableEq, Repr

/-- What a mapped opcode decodes to (R119). -/
structure OpDescriptor where
  kind   : OpKind
  dst    : Operand
  src    : Operand
  /-- Base cycle cost in machine cycles. -/
  cycles : Nat
  /-- Bytes consumed, opcode included. -/
  length : Nat
deriving DecidableEq, Repr

/-- The Decoder's output (R119). -/
inductive Descriptor where
  | op (o : OpDescriptor)
  | unimplementedOpcode (opcode : Byte) (pc : Word)
deriving DecidableEq, Repr

end Sys2Proof
end

