-- ==== Sys2Proof/WellFormed.lean ====
section
/-! DEFINITION. When an instruction is one the encoding admits: an unmapped row's opcode byte has that row's pattern
(30_encoding.md R116). The seven loads and 0x76 have no operand and are always well formed. -/

namespace Sys2Proof

/-- The masks and matches are those of R116, row by row. -/
def Instr.wf : Instr → Bool
  | .ldBHl => true
  | .ldCHl => true
  | .ldDHl => true
  | .ldEHl => true
  | .ldHHl => true
  | .ldLHl => true
  | .ldAHl => true
  | .unimplBlk00 opcode => opcode &&& 0xC0#8 == 0x00#8
  | .unimplBlk10 opcode => opcode &&& 0xC0#8 == 0x80#8
  | .unimplBlk11 opcode => opcode &&& 0xC0#8 == 0xC0#8
  | .unimplBlk01Src0 opcode => opcode &&& 0xC4#8 == 0x40#8
  | .unimplBlk01Src4 opcode => opcode &&& 0xC6#8 == 0x44#8
  | .unimplBlk01Src7 opcode => opcode &&& 0xC7#8 == 0x47#8
  | .unimpl76 => true

end Sys2Proof
end

