-- ==== Sys2Proof/Decode.lean ====
section
/-! DEFINITION. The opcode format, the register-code table, the decoder (total on any bytes), the operation descriptor of
an instruction, the encoder, and the opcode table of 30_encoding.md R124 as data. The opcode bytes and the field positions
are the spec's, which marks them as general knowledge (R111, R115, D1; log entry 1). -/

namespace Sys2Proof

/-! ### The OP8 format (R111) -/

/-- `blk`, bits 7:6: the block selector. -/
def op8Blk (opcode : Byte) : BitVec 2 := opcode.extractLsb' 6 2

/-- `dst`, bits 5:3: the destination operand code. -/
def op8Dst (opcode : Byte) : Code := opcode.extractLsb' 3 3

/-- `src`, bits 2:0: the source operand code. -/
def op8Src (opcode : Byte) : Code := opcode.extractLsb' 0 3

/-- An opcode byte from its three fields. -/
def op8 (blk : BitVec 2) (dst src : Code) : Byte := (blk ++ dst) ++ src

/-! ### Operand codes (10_state.md R26, 30_encoding.md R112) -/

/-- The register a 3-bit code selects. Code 110 selects none: it means the memory operand at HL (R113). The Register File
and the Decoder both use this one table (R26). -/
def regOfCode (code : Code) : Option Reg8 :=
  if code = 0b000#3 then some .b
  else if code = 0b001#3 then some .c
  else if code = 0b010#3 then some .d
  else if code = 0b011#3 then some .e
  else if code = 0b100#3 then some .h
  else if code = 0b101#3 then some .l
  else if code = 0b111#3 then some .a
  else none

/-- The code that selects a register: R26 read the other way. -/
def codeOfReg : Reg8 → Code
  | .b => 0b000#3
  | .c => 0b001#3
  | .d => 0b010#3
  | .e => 0b011#3
  | .h => 0b100#3
  | .l => 0b101#3
  | .a => 0b111#3

/-- The operand tag of a 3-bit code (R112): a register code gives that register, 110 gives the byte of memory at HL. -/
def operandOfCode (code : Code) : Operand :=
  match regOfCode code with
  | some r => .reg (codeOfReg r)
  | none => .indirectHl

/-! ### Decoding (R115, R116, R120) -/

/-- The load whose destination is `r` (R115). -/
def loadOfReg : Reg8 → Instr
  | .b => .ldBHl
  | .c => .ldCHl
  | .d => .ldDHl
  | .e => .ldEHl
  | .h => .ldHHl
  | .l => .ldLHl
  | .a => .ldAHl

/-- The instruction of an opcode byte: mapped when `blk` is 01, `src` is 110 and `dst` is a register code (R120), otherwise
the row of R116 the byte falls in. Total on all 256 bytes. -/
def decodeOpcode (opcode : Byte) : Instr :=
  if op8Blk opcode = 0b00#2 then .unimplBlk00 opcode
  else if op8Blk opcode = 0b10#2 then .unimplBlk10 opcode
  else if op8Blk opcode = 0b11#2 then .unimplBlk11 opcode
  else
    match regOfCode (op8Src opcode), regOfCode (op8Dst opcode) with
    | none, some r => loadOfReg r
    | none, none => .unimpl76
    | some .a, _ => .unimplBlk01Src7 opcode
    | some .h, _ => .unimplBlk01Src4 opcode
    | some .l, _ => .unimplBlk01Src4 opcode
    | some .b, _ => .unimplBlk01Src0 opcode
    | some .c, _ => .unimplBlk01Src0 opcode
    | some .d, _ => .unimplBlk01Src0 opcode
    | some .e, _ => .unimplBlk01Src0 opcode

/-- Why a byte sequence holds no instruction. Every opcode byte decodes (R120), so the one reason is that there is no byte. -/
inductive DecodeReject where
  | noOpcodeByte
deriving DecidableEq, Repr

/-- Decode the first instruction of a byte sequence: every instruction is one byte long (R110), and the byte after an opcode
is never read (R117, R193). -/
def decode : List Byte → Except DecodeReject (Instr × List Byte)
  | [] => .error .noOpcodeByte
  | opcode :: rest => .ok (decodeOpcode opcode, rest)

/-- The bytes of `nbits` bits of `w`, the first byte holding bits 7..0; at most the longest instruction, one byte. -/
def tableBytes (nbits w : Nat) : List Byte :=
  if nbits = 0 then [] else [BitVec.ofNat 8 (w % 2 ^ nbits)]

/-- What the decoder reads from an instruction whose bits are numbered as spec/opcode_table.json numbers them. -/
def decodeTableWord (nbits w : Nat) : Option Instr :=
  match decode (tableBytes nbits w) with
  | .ok (i, _) => some i
  | .error _ => none

/-- The operation descriptor of an instruction fetched at `pc` (R119, R120); `cycles` is `CYCLES_LD_R_HL`. -/
def Instr.descriptor (cycles : Nat) (pc : Word) : Instr → Descriptor
  | .ldBHl => .op ⟨.load8, .reg 0b000#3, .indirectHl, cycles, 1⟩
  | .ldCHl => .op ⟨.load8, .reg 0b001#3, .indirectHl, cycles, 1⟩
  | .ldDHl => .op ⟨.load8, .reg 0b010#3, .indirectHl, cycles, 1⟩
  | .ldEHl => .op ⟨.load8, .reg 0b011#3, .indirectHl, cycles, 1⟩
  | .ldHHl => .op ⟨.load8, .reg 0b100#3, .indirectHl, cycles, 1⟩
  | .ldLHl => .op ⟨.load8, .reg 0b101#3, .indirectHl, cycles, 1⟩
  | .ldAHl => .op ⟨.load8, .reg 0b111#3, .indirectHl, cycles, 1⟩
  | .unimplBlk00 opcode => .unimplementedOpcode opcode pc
  | .unimplBlk10 opcode => .unimplementedOpcode opcode pc
  | .unimplBlk11 opcode => .unimplementedOpcode opcode pc
  | .unimplBlk01Src0 opcode => .unimplementedOpcode opcode pc
  | .unimplBlk01Src4 opcode => .unimplementedOpcode opcode pc
  | .unimplBlk01Src7 opcode => .unimplementedOpcode opcode pc
  | .unimpl76 => .unimplementedOpcode 0x76#8 pc

/-! ### Encoding (R111, R115, R116) -/

/-- The opcode byte of an instruction. -/
def encodeOpcode : Instr → Byte
  | .ldBHl => op8 0b01#2 (codeOfReg .b) 0b110#3
  | .ldCHl => op8 0b01#2 (codeOfReg .c) 0b110#3
  | .ldDHl => op8 0b01#2 (codeOfReg .d) 0b110#3
  | .ldEHl => op8 0b01#2 (codeOfReg .e) 0b110#3
  | .ldHHl => op8 0b01#2 (codeOfReg .h) 0b110#3
  | .ldLHl => op8 0b01#2 (codeOfReg .l) 0b110#3
  | .ldAHl => op8 0b01#2 (codeOfReg .a) 0b110#3
  | .unimplBlk00 opcode => opcode
  | .unimplBlk10 opcode => opcode
  | .unimplBlk11 opcode => opcode
  | .unimplBlk01Src0 opcode => opcode
  | .unimplBlk01Src4 opcode => opcode
  | .unimplBlk01Src7 opcode => opcode
  | .unimpl76 => op8 0b01#2 0b110#3 0b110#3

/-- The bytes of an instruction: its opcode alone (R110). -/
def encode (i : Instr) : List Byte := [encodeOpcode i]

/-! ### The opcode table (R124) -/

/-- One row of the opcode table: the byte has the row when its bits under `mask` are `bits`. -/
structure OpcodeRow where
  mask : Byte
  bits : Byte
deriving DecidableEq, Repr

/-- The row an instruction stands for. -/
def Instr.row : Instr → OpcodeRow
  | .ldBHl => ⟨0xFF#8, 0x46#8⟩
  | .ldCHl => ⟨0xFF#8, 0x4E#8⟩
  | .ldDHl => ⟨0xFF#8, 0x56#8⟩
  | .ldEHl => ⟨0xFF#8, 0x5E#8⟩
  | .ldHHl => ⟨0xFF#8, 0x66#8⟩
  | .ldLHl => ⟨0xFF#8, 0x6E#8⟩
  | .ldAHl => ⟨0xFF#8, 0x7E#8⟩
  | .unimplBlk00 _ => ⟨0xC0#8, 0x00#8⟩
  | .unimplBlk10 _ => ⟨0xC0#8, 0x80#8⟩
  | .unimplBlk11 _ => ⟨0xC0#8, 0xC0#8⟩
  | .unimplBlk01Src0 _ => ⟨0xC4#8, 0x40#8⟩
  | .unimplBlk01Src4 _ => ⟨0xC6#8, 0x44#8⟩
  | .unimplBlk01Src7 _ => ⟨0xC7#8, 0x47#8⟩
  | .unimpl76 => ⟨0xFF#8, 0x76#8⟩

/-- The fourteen rows of spec/opcode_table.json, in its order (R124). -/
def opcodeTable : List OpcodeRow :=
  [⟨0xFF#8, 0x46#8⟩, ⟨0xFF#8, 0x4E#8⟩, ⟨0xFF#8, 0x56#8⟩, ⟨0xFF#8, 0x5E#8⟩,
   ⟨0xFF#8, 0x66#8⟩, ⟨0xFF#8, 0x6E#8⟩, ⟨0xFF#8, 0x7E#8⟩] ++
  [⟨0xC0#8, 0x00#8⟩, ⟨0xC0#8, 0x80#8⟩, ⟨0xC0#8, 0xC0#8⟩, ⟨0xC4#8, 0x40#8⟩,
   ⟨0xC6#8, 0x44#8⟩, ⟨0xC7#8, 0x47#8⟩, ⟨0xFF#8, 0x76#8⟩]

/-- Whether an opcode byte has a row's pattern (R124). -/
def OpcodeRow.matches (row : OpcodeRow) (opcode : Byte) : Bool := opcode &&& row.mask == row.bits

/-- The mapped opcodes (R115): the seven bytes `01 ddd 110` with `ddd` a register code. -/
def isMapped (opcode : Byte) : Bool :=
  decide (op8Blk opcode = 0b01#2) && decide (op8Src opcode = 0b110#3) && decide (op8Dst opcode ≠ 0b110#3)

end Sys2Proof
end

