-- ==== Sys2Proof/Config.lean ====
section
/-! DEFINITION. The parameters the spec leaves open (00_scope.md R8): what one CPU instance is constructed with. -/

namespace Sys2Proof

/-- One answer of an attached `IoRead(offset)` hook (20_memory.md R75): the byte it gives while the peripheral is in `state`. -/
structure IoReadEntry where
  state  : Nat
  offset : Nat
  value  : Byte
deriving DecidableEq, Repr

/-- One write an attached `IoWrite(offset, v)` hook takes (R75) while the peripheral is in `state`; the peripheral's effect is
the state it goes to, which decides what its `IoRead` answers from then on. -/
structure IoWriteEntry where
  state  : Nat
  offset : Nat
  value  : Byte
  next   : Nat
deriving DecidableEq, Repr

/-- The parameters of 00_scope.md R8, fixed for the life of an instance (10_state.md R38 (d)). -/
structure Config where
  /-- `ROM_BANK_COUNT`: how many 16 KiB banks the ROM store holds, at least 2 (D10). -/
  romBankCount : Nat
  /-- `CGB_MODE`: whether the VRAM and WRAM selectors may be changed (D12). -/
  cgbMode : Bool
  /-- `EXT_RAM_PRESENT`: whether A000–BFFF is backed by storage (D13). -/
  extRamPresent : Bool
  /-- `CYCLES_LD_R_HL`: machine cycles reported for `LD r,(HL)` (D8). Timing only. -/
  cyclesLdRHl : Nat
  /-- `ROM_BANK_RESET` (D11). -/
  romBankReset : Nat
  /-- `VRAM_BANK_RESET` (D11). -/
  vramBankReset : Nat
  /-- `WRAM_BANK_RESET` (D11). -/
  wramBankReset : Nat
  /-- `IoRead` (20_memory.md R75): the first entry for the peripheral's state and an offset answers; without one it declines.
  DESIGN CHOICE (log entry 14): the hook is a finite table, not a function, so that it is plain data. -/
  ioRead : List IoReadEntry
  /-- `IoWrite` (R75): the first entry for the peripheral's state, an offset and a byte takes the write; without one it
  declines. DESIGN CHOICE (log entry 14), as `ioRead`. -/
  ioWrite : List IoWriteEntry
deriving DecidableEq, Repr

/-- `CGB_MODE` of the machine that `State.reset` constructs. The spec gives the parameter no default (R8, D12), so
nothing is known of it: a statement about the machine after reset holds for either value. -/
opaque Config.cgbModeOpen : Bool

/-- The defaults of 00_scope.md R8; `CGB_MODE` has none there. -/
def Config.default : Config where
  romBankCount := 2
  cgbMode := Config.cgbModeOpen
  extRamPresent := false
  cyclesLdRHl := 2
  romBankReset := 1
  vramBankReset := 0
  wramBankReset := 1
  ioRead := []
  ioWrite := []

/-- `MAX_ROM_SIZE`, always `ROM_BANK_COUNT` × 0x4000 (00_scope.md R8, 90_conflicts.md C11). -/
def Config.maxRomSize (cfg : Config) : Nat := cfg.romBankCount * 0x4000

/-- The parameters a construction may be given: at least two ROM banks, reset selectors in their legal ranges
(00_scope.md R8, 10_state.md R35). -/
def Config.wf (cfg : Config) : Bool :=
  decide (2 ≤ cfg.romBankCount) && decide (cfg.romBankReset < cfg.romBankCount) &&
  decide (cfg.vramBankReset ≤ 1) && decide (1 ≤ cfg.wramBankReset) && decide (cfg.wramBankReset ≤ 7)

end Sys2Proof
end

