-- ==== Sys2Proof/Machine/State.lean ====
section
/-! DEFINITION. The whole architectural state of one CPU instance (10_state.md R20), what stops an operation (60_exceptions.md
R200), what a step reports (40_fetch_execute.md R147), and the state after construction (R40). -/

namespace Sys2Proof.Machine

/-- A store: (index, byte) pairs in rising order of index, none holding 0x00. An index that is not listed reads 0x00, the
value every byte has at construction (10_state.md R40). -/
abbrev Memory := List Host.Cell

/-- The two states of the Fetch-Execute Loop (R34). -/
inductive RunState where
  | running
  | halted
deriving DecidableEq, Repr

/-- The state of one CPU instance (R20), and the parameters it was constructed with. -/
structure State where
  /-- The eight 8-bit slots of the register file (R21, R22). -/
  a : Byte
  f : Byte
  b : Byte
  c : Byte
  d : Byte
  e : Byte
  h : Byte
  l : Byte
  /-- The program counter (R31). -/
  pc : Word
  /-- The stack pointer (R33). -/
  sp : Word
  /-- The loop state (R34). -/
  run : RunState
  /-- Bank selectors (R35). -/
  romBank : Nat
  vramBank : Nat
  wramBank : Nat
  /-- The ROM store, `ROM_BANK_COUNT` banks of 0x4000 bytes (20_memory.md R66, R67, R81). -/
  rom : Memory
  /-- Two banks of 0x2000 bytes, bank 0 first (R68, R81). -/
  vram : Memory
  /-- 0x2000 bytes when `EXT_RAM_PRESENT` (R69, R81). -/
  extram : Memory
  /-- Eight banks of 0x1000 bytes, bank 0 first (R70, R71, R81). -/
  wram : Memory
  /-- 0xA0 bytes (R73). -/
  oam : Memory
  /-- 0x7F bytes (R76). -/
  hram : Memory
  /-- The Interrupt Enable register (R36, R77). -/
  ie : Byte
  /-- The state of the peripheral attached to the I/O window (20_memory.md R75): the MODEL's own field, no state of the core, whose I/O
  region owns no storage (R20). Only a write the `IoWrite` hook takes changes it (log entry 14). -/
  ioState : Nat
  /-- The parameters of 00_scope.md R8 (log entry 16): no operation changes them. -/
  cfg : Config
deriving DecidableEq, Repr

/-- The four error kinds (60_exceptions.md R200). No STEP of the model ends in one: `UnimplementedOpcode`, the only one a
program can cause, is taken as the transition to Halted (R207). -/
inductive Fault where
  /-- Raised by ROM load when the buffer is longer than `MAX_ROM_SIZE` (R204); the load does nothing. Safe. -/
  | romTooLarge (len : Nat)
  /-- Raised by `get8` and `set8` of code 110 (R202); nothing changes. No decoded instruction reaches it. Safe. -/
  | invalidRegisterCode (code : Code)
  /-- Carried by the result of a step on an unmapped opcode (R201); no operation stops with it. Safe. -/
  | unimplementedOpcode (opcode : Byte) (pc : Word)
  /-- Raised by nothing: the bus decodes every address (R203). Carried because the spec lists it. Safe. -/
  | addressDecodeGap (addr : Word)
deriving DecidableEq, Repr

/-- The order in which the document lists the error kinds, a number for a model that wants one (R200, D22). -/
def Fault.ordinal : Fault → Nat
  | .romTooLarge _ => 1
  | .invalidRegisterCode _ => 2
  | .unimplementedOpcode _ _ => 3
  | .addressDecodeGap _ => 4

/-- The twelve regions (20_memory.md R63). -/
inductive Region where
  | rom0 | romN | vram | extram | wram0 | wramN | echo | oam | unusable | io | hram | ie
deriving DecidableEq, Repr

/-- Why the model gives a request no meaning. No step of the model ends in one. -/
inductive Refusal where
  /-- An instruction without a meaning in `exec`; this model has none. Safe. -/
  | notModelled (mnemonic : String)
  /-- Raised by `selectBank` outside a selector's legal range or outside CGB mode (20_memory.md R80); nothing changes. Safe. -/
  | bankNotSelectable (region : Region) (bank : Nat)
  /-- Raised by a host's ROM load after the first step (70_reset_and_hazards.md R245); nothing changes. Safe. -/
  | romLoadAfterFirstStep
  /-- Raised by any host move but construction when there is no CPU instance (R248). Safe. -/
  | noCpu
deriving DecidableEq, Repr

/-- What a step returns beside the new state (40_fetch_execute.md R147): an output, not state (10_state.md R38). -/
inductive StepResult where
  /-- A mapped instruction executed, in this many machine cycles. -/
  | ok (cycles : Nat)
  /-- The byte at PC was unmapped. -/
  | err (error : Fault)
  /-- The step was invoked while Halted. -/
  | idle
deriving DecidableEq, Repr

/-- One transaction on the bus, for the order of a step's accesses (R148). -/
inductive BusAccess where
  | read (addr : Word)
  | write (addr : Word) (value : Byte)
deriving DecidableEq, Repr

/-- Construction, which is reset (R40, 70_reset_and_hazards.md R240, R241): everything zero, Running, the selectors at their
reset parameters. It takes the parameters and cannot fail. An attached peripheral starts in its state 0 (log entry 14). -/
def State.construct (cfg : Config) : State where
  a := 0#8
  f := 0#8
  b := 0#8
  c := 0#8
  d := 0#8
  e := 0#8
  h := 0#8
  l := 0#8
  pc := 0#16
  sp := 0#16
  run := .running
  romBank := cfg.romBankReset
  vramBank := cfg.vramBankReset
  wramBank := cfg.wramBankReset
  rom := []
  vram := []
  extram := []
  wram := []
  oam := []
  hram := []
  ie := 0#8
  ioState := 0
  cfg := cfg

/-- The machine right after construction with the default parameters (R40, 00_scope.md R8). -/
def State.reset : State := State.construct Config.default

end Sys2Proof.Machine
end

