-- ==== Sys2Proof/Machine/Memory.lean ====
section
/-! DEFINITION. Reading and writing one byte of a store, the canonical form a store keeps, and a store filled from a buffer. -/

namespace Sys2Proof.Machine

/-- What an index that is not listed reads as: every byte of every store is 0x00 at construction (10_state.md R40). -/
def Memory.unlisted : Byte := 0x00#8

/-- The byte at an index. -/
def Memory.read : Memory → Nat → Byte
  | [], _ => Memory.unlisted
  | (j, v) :: m, i => if i = j then v else Memory.read m i

/-- Put an entry in front, unless an unlisted index reads as its value anyway. -/
def Memory.consCell (i : Nat) (v : Byte) (m : Memory) : Memory :=
  if v = Memory.unlisted then m else (i, v) :: m

/-- Write one byte, keeping the canonical form. -/
def Memory.write : Memory → Nat → Byte → Memory
  | [], i, v => Memory.consCell i v []
  | (j, w) :: m, i, v =>
    if i < j then Memory.consCell i v ((j, w) :: m)
    else if i = j then Memory.consCell i v m
    else (j, w) :: Memory.write m i v

/-- The store whose bytes from index `i` on are those of the buffer, and 0x00 elsewhere. -/
def Memory.ofBytesFrom (i : Nat) : List Byte → Memory
  | [] => []
  | v :: vs => Memory.consCell i v (Memory.ofBytesFrom (i + 1) vs)

/-- Canonical form from a lower bound: indices strictly rising from it, no entry that reads as an unlisted index does. -/
def Memory.wfFrom (lo : Nat) : Memory → Bool
  | [] => true
  | (j, v) :: m => decide (lo ≤ j) && decide (v ≠ Memory.unlisted) && Memory.wfFrom (j + 1) m

/-- The canonical form. -/
def Memory.wf (m : Memory) : Bool := Memory.wfFrom 0 m

/-- Every listed index lies inside a store of `size` bytes (20_memory.md R81). -/
def Memory.within (size : Nat) (m : Memory) : Bool := m.all (fun cell => decide (cell.1 < size))

end Sys2Proof.Machine
end

