-- ==== Sys2Proof/Machine/Bus.lean ====
section
/-! DEFINITION. The memory bus (20_memory.md): the decode of an address, where each region keeps its bytes, bus read and bus
write. -/

namespace Sys2Proof.Machine

/-- The fallback value of unbacked regions (R78, 00_scope.md R7). -/
def fallback : Byte := 0xFF#8

/-- `Decode` of R65 on an address as a number: the region and the offset in it. -/
def decodeNat (n : Nat) : Region × Nat :=
  if n ≤ 0x3FFF then (.rom0, n)
  else if n ≤ 0x7FFF then (.romN, n - 0x4000)
  else if n ≤ 0x9FFF then (.vram, n - 0x8000)
  else if n ≤ 0xBFFF then (.extram, n - 0xA000)
  else if n ≤ 0xCFFF then (.wram0, n - 0xC000)
  else if n ≤ 0xDFFF then (.wramN, n - 0xD000)
  else if n ≤ 0xFDFF then (.echo, n - 0xE000)
  else if n ≤ 0xFE9F then (.oam, n - 0xFE00)
  else if n ≤ 0xFEFF then (.unusable, n - 0xFEA0)
  else if n ≤ 0xFF7F then (.io, n - 0xFF00)
  else if n ≤ 0xFFFE then (.hram, n - 0xFF80)
  else (.ie, 0)

/-- The region an address lies in and its offset there (R65). It depends on the address alone. -/
def decodeAddress (addr : Word) : Region × Nat := decodeNat addr.toNat

/-- The first address of a region (R63). -/
def Region.first : Region → Nat
  | .rom0 => 0x0000
  | .romN => 0x4000
  | .vram => 0x8000
  | .extram => 0xA000
  | .wram0 => 0xC000
  | .wramN => 0xD000
  | .echo => 0xE000
  | .oam => 0xFE00
  | .unusable => 0xFEA0
  | .io => 0xFF00
  | .hram => 0xFF80
  | .ie => 0xFFFF

/-- The size of a region in bytes (R63). -/
def Region.size : Region → Nat
  | .rom0 => 0x4000
  | .romN => 0x4000
  | .vram => 0x2000
  | .extram => 0x2000
  | .wram0 => 0x1000
  | .wramN => 0x1000
  | .echo => 0x1E00
  | .oam => 0xA0
  | .unusable => 0x60
  | .io => 0x80
  | .hram => 0x7F
  | .ie => 1

/-- What stands behind an address: a byte of a store, the Interrupt Enable register, an offset of the I/O window, or nothing. -/
inductive Target where
  | rom (i : Nat)
  | vram (i : Nat)
  | extram (i : Nat)
  | wram (i : Nat)
  | oam (i : Nat)
  | hram (i : Nat)
  | ie
  | io (offset : Nat)
  | unbacked
deriving DecidableEq, Repr

/-- What stands behind an offset of a region, the selectors picking the bank (R66 to R77). The echo has no storage of its own. -/
def regionTarget (s : State) : Region → Nat → Target
  | .rom0, off => .rom off
  | .romN, off => .rom (s.romBank * 0x4000 + off)
  | .vram, off => .vram (s.vramBank * 0x2000 + off)
  | .extram, off => if s.cfg.extRamPresent then .extram off else .unbacked
  | .wram0, off => .wram off
  | .wramN, off => .wram (s.wramBank * 0x1000 + off)
  | .echo, _ => .unbacked
  | .oam, off => .oam off
  | .unusable, _ => .unbacked
  | .io, off => .io off
  | .hram, off => .hram off
  | .ie, _ => .ie

/-- The address an access is performed at: an echo address is redirected 0x2000 down (R72, 90_conflicts.md C1). -/
def redirect (addr : Word) : Word :=
  if (decodeAddress addr).1 = .echo then addr - 0x2000#16 else addr

/-- What stands behind an address (R65, R72). -/
def busTarget (s : State) (addr : Word) : Target :=
  regionTarget s (decodeAddress (redirect addr)).1 (decodeAddress (redirect addr)).2

/-- `IoRead(offset)` (R75): the byte an attached hook answers at an offset of the I/O window; none when it declines. -/
def ioReadAnswer (s : State) (offset : Nat) : Option Byte :=
  (s.cfg.ioRead.find? (fun e => e.state == s.ioState && e.offset == offset)).map (·.value)

/-- `IoWrite(offset, v)` (R75): the state the peripheral goes to when an attached hook takes the write; none when it declines. -/
def ioWriteAnswer (s : State) (offset : Nat) (v : Byte) : Option Nat :=
  (s.cfg.ioWrite.find? (fun e => e.state == s.ioState && e.offset == offset && e.value == v)).map (·.next)

/-- A write in the I/O window (R75): the peripheral's effect where the hook takes it, nothing where it declines. -/
def ioWritten (s : State) (offset : Nat) (v : Byte) : State :=
  { s with ioState := (ioWriteAnswer s offset v).getD s.ioState }

/-- The byte a target gives to a read (R66 to R78). -/
def readTarget (s : State) : Target → Byte
  | .rom i => s.rom.read i
  | .vram i => s.vram.read i
  | .extram i => s.extram.read i
  | .wram i => s.wram.read i
  | .oam i => s.oam.read i
  | .hram i => s.hram.read i
  | .ie => s.ie
  | .io offset => (ioReadAnswer s offset).getD fallback
  | .unbacked => fallback

/-- Storing a byte in a target; ROM and unbacked targets discard it (R66, R67, R74, R78), and so does the I/O window where no hook
takes it (R75). A write the hook takes changes the peripheral's state and nothing of the core (log entry 14). -/
def writeTarget (s : State) (v : Byte) : Target → State
  | .rom _ => s
  | .vram i => { s with vram := s.vram.write i v }
  | .extram i => { s with extram := s.extram.write i v }
  | .wram i => { s with wram := s.wram.write i v }
  | .oam i => { s with oam := s.oam.write i v }
  | .hram i => { s with hram := s.hram.write i v }
  | .ie => { s with ie := v }
  | .io offset => ioWritten s offset v
  | .unbacked => s

/-- Whether a target keeps a byte written to it (R63's last columns). -/
def Target.writable : Target → Bool
  | .rom _ => false
  | .vram _ => true
  | .extram _ => true
  | .wram _ => true
  | .oam _ => true
  | .hram _ => true
  | .ie => true
  | .io _ => false
  | .unbacked => false

/-- Whether the write of `v` to a target is one the attached `IoWrite` hook takes (R75). -/
def ioTakes (s : State) (v : Byte) : Target → Bool
  | .io offset => (ioWriteAnswer s offset v).isSome
  | .rom _ => false
  | .vram _ => false
  | .extram _ => false
  | .wram _ => false
  | .oam _ => false
  | .hram _ => false
  | .ie => false
  | .unbacked => false

/-- Whether a target is an offset of the I/O window. -/
def Target.isIo : Target → Bool
  | .io _ => true
  | .rom _ => false
  | .vram _ => false
  | .extram _ => false
  | .wram _ => false
  | .oam _ => false
  | .hram _ => false
  | .ie => false
  | .unbacked => false

/-- Bus read, `MemRead(addr, 1)` (R61): total, and it changes no state (R87); a read side effect of an attached `IoRead` hook
is outside this core by R87 (log entry 14). -/
def busRead (s : State) (addr : Word) : Byte := readTarget s (busTarget s addr)

/-- Bus write, `MemWrite(addr, 1, v)` (R62): total; stores one byte, or discards it, or hands it to the I/O hook (R75). -/
def busWrite (s : State) (addr : Word) (v : Byte) : State := writeTarget s v (busTarget s addr)

end Sys2Proof.Machine
end

