-- ==== Sys2Proof/Machine/Flags.lean ====
section
/-! DEFINITION. The flag register F (10_state.md R22, R23, R30): its mask, its four bits, reading and writing one bit. No
instruction in scope computes a flag (R23, R155). -/

namespace Sys2Proof.Machine

/-- The mask of a flag bit in F (R23). -/
def flagMask : Flag → Byte
  | .z => 0x80#8
  | .n => 0x40#8
  | .h => 0x20#8
  | .c => 0x10#8

/-- What F stores of a byte written to it: bits 3:0 are always 0 (R22). -/
def maskF (v : Byte) : Byte := v &&& 0xF0#8

/-- Every write of F as a byte goes through the mask (R22). -/
def writeF (s : State) (v : Byte) : State := { s with f := maskF v }

/-- `get_flag(bit)` (R30). -/
def getFlag (s : State) (flag : Flag) : Bool := s.f &&& flagMask flag != 0#8

/-- `set_flag(bit, b)` (R30): only its own bit. -/
def setFlag (s : State) (flag : Flag) (on : Bool) : State :=
  { s with f := (s.f &&& ~~~ flagMask flag) ||| (if on then flagMask flag else 0#8) }

end Sys2Proof.Machine
end

