-- ==== Sys2Proof/Machine/Operands.lean ====
section
/-! DEFINITION. The register file's operations (10_state.md R25 to R29) and the operand forms of the Decoder's tags
(30_encoding.md R113, R114). -/

namespace Sys2Proof.Machine

/-- What `get8` and `set8` are called with: a 3-bit code, or the selector of F outside the code space (R27, D23). -/
inductive RegSel where
  | code (c : Code)
  | fCode
deriving DecidableEq, Repr

/-- The slot of a general register (R21). -/
def readReg (s : State) : Reg8 → Byte
  | .b => s.b
  | .c => s.c
  | .d => s.d
  | .e => s.e
  | .h => s.h
  | .l => s.l
  | .a => s.a

/-- Writing the slot of a general register changes no other slot (R21). -/
def writeReg (s : State) (v : Byte) : Reg8 → State
  | .b => { s with b := v }
  | .c => { s with c := v }
  | .d => { s with d := v }
  | .e => { s with e := v }
  | .h => { s with h := v }
  | .l => { s with l := v }
  | .a => { s with a := v }

/-- `get8` (R25, R26, R27): code 110 is a contract violation. -/
def get8 (s : State) : RegSel → Except Fault Byte
  | .fCode => .ok s.f
  | .code c =>
    match regOfCode c with
    | some r => .ok (readReg s r)
    | none => .error (.invalidRegisterCode c)

/-- `set8` (R25, R26, R27): code 110 is a contract violation and changes nothing. -/
def set8 (s : State) (v : Byte) : RegSel → Except Fault State
  | .fCode => .ok (writeF s v)
  | .code c =>
    match regOfCode c with
    | some r => .ok (writeReg s v r)
    | none => .error (.invalidRegisterCode c)

/-- Pair composition, `(hi << 8) | lo` (R24, 40_fetch_execute.md R155). -/
def pairWord (hi lo : Byte) : Word := (hi.setWidth 16 <<< 8) ||| lo.setWidth 16

/-- `get16` (R24, R28): a pair is a view of its two slots, the first-named one high. -/
def get16 (s : State) : Pair → Word
  | .af => pairWord s.a s.f
  | .bc => pairWord s.b s.c
  | .de => pairWord s.d s.e
  | .hl => pairWord s.h s.l

/-- Bits 15:8 of a word. -/
def hiByte (w : Word) : Byte := w.extractLsb' 8 8

/-- Bits 7:0 of a word. -/
def loByte (w : Word) : Byte := w.extractLsb' 0 8

/-- `set16` (R28, R29): both slots are written together; the low byte of AF is masked. -/
def set16 (s : State) (w : Word) : Pair → State
  | .af => { s with a := hiByte w, f := maskF (loByte w) }
  | .bc => { s with b := hiByte w, c := loByte w }
  | .de => { s with d := hiByte w, e := loByte w }
  | .hl => { s with h := hiByte w, l := loByte w }

/-- The effective address of `IndirectHL`: HL as it stands, no offset, HL not modified (R114). -/
def addressHl (s : State) : Word := get16 s .hl

/-- The byte an `IndirectHL` source operand names (R113, R170). -/
def readIndirectHl (s : State) : Byte := busRead s (addressHl s)

end Sys2Proof.Machine
end

