-- ==== Sys2Proof/Machine/Ops.lean ====
section
/-! DEFINITION. The operations the instructions share: fetching, advancing PC, the 8-bit load from memory at HL, taking
`UnimplementedOpcode` (the transition to Halted) and the return from it (the host's resume), and placing a byte where the
next fetch reads it. -/

namespace Sys2Proof.Machine

/-- The opcode byte of the next step, an ordinary bus read at PC, from any region (40_fetch_execute.md R141). -/
def fetchOpcode (s : State) : Byte := busRead s s.pc

/-- The instruction of the next step (R142): the decoder's reading of the byte at PC. -/
def fetchInstr (s : State) : Instr := decodeOpcode (fetchOpcode s)

/-- PC moves past an instruction of `length` bytes, modulo 2^16 (10_state.md R32, 40_fetch_execute.md R145, D9). -/
def advancePc (length : Nat) (s : State) : State := { s with pc := s.pc + BitVec.ofNat 16 length }

/-- `Load8` with a register destination and an `IndirectHL` source (41_ld_r_hl.md R170): the byte at the old HL goes to the
register of code `c` through the register file, then PC moves past the one byte of the instruction. -/
def load8 (c : Code) (s : State) : Host.Outcome State Fault Refusal :=
  match set8 s (readIndirectHl s) (.code c) with
  | .ok t => .next (advancePc 1 t)
  | .error r => .fault r

/-- Taking `UnimplementedOpcode` (60_exceptions.md R207, 42_unmapped_opcodes.md R191): the loop goes to Halted; nothing is saved,
PC keeps the address of the offending byte, nothing else changes. -/
def enterHalted (s : State) : State := { s with run := .halted }

/-- The return (R209), a host move: back to Running from either state; nothing is restored. -/
def resume (s : State) : State := { s with run := .running }

/-- The state in which the next step fetches `opcode`: the byte stands in the store PC resolves to, and the loop is Running. Where
PC resolves to no storage (absent external RAM, Unusable, the I/O window), PC is also put at 0x0000 and the byte in `rom[0]`
(log entry 18). -/
def placeOpcode (s : State) (opcode : Byte) : State :=
  match busTarget s s.pc with
  | .rom i => { s with run := .running, rom := s.rom.write i opcode }
  | .vram i => { s with run := .running, vram := s.vram.write i opcode }
  | .extram i => { s with run := .running, extram := s.extram.write i opcode }
  | .wram i => { s with run := .running, wram := s.wram.write i opcode }
  | .oam i => { s with run := .running, oam := s.oam.write i opcode }
  | .hram i => { s with run := .running, hram := s.hram.write i opcode }
  | .ie => { s with run := .running, ie := opcode }
  | .io _ => { s with run := .running, pc := 0#16, rom := s.rom.write 0 opcode }
  | .unbacked => { s with run := .running, pc := 0#16, rom := s.rom.write 0 opcode }

end Sys2Proof.Machine
end

