-- ==== Sys2Proof/Machine/LdRHl.lean ====
section
/-! DEFINITION. The family `LD r,(HL)` (41_ld_r_hl.md): one meaning per destination register. -/

namespace Sys2Proof.Machine

/-- `LD B,(HL)` (R171). -/
def execLdBHl (s : State) : Host.Outcome State Fault Refusal := load8 0b000#3 s

/-- `LD C,(HL)` (R172). -/
def execLdCHl (s : State) : Host.Outcome State Fault Refusal := load8 0b001#3 s

/-- `LD D,(HL)` (R173). -/
def execLdDHl (s : State) : Host.Outcome State Fault Refusal := load8 0b010#3 s

/-- `LD E,(HL)` (R174). -/
def execLdEHl (s : State) : Host.Outcome State Fault Refusal := load8 0b011#3 s

/-- `LD H,(HL)` (R175): the address is the old HL (R178). -/
def execLdHHl (s : State) : Host.Outcome State Fault Refusal := load8 0b100#3 s

/-- `LD L,(HL)` (R176): the address is the old HL (R178). -/
def execLdLHl (s : State) : Host.Outcome State Fault Refusal := load8 0b101#3 s

/-- `LD A,(HL)` (R177). -/
def execLdAHl (s : State) : Host.Outcome State Fault Refusal := load8 0b111#3 s

end Sys2Proof.Machine
end

