-- ==== Sys2Proof/Machine/Unimplemented.lean ====
section
/-! DEFINITION. The unmapped opcodes (42_unmapped_opcodes.md R191): one meaning per row of R116. Each takes the error as the
transition to Halted; the opcode byte goes into the step's result (`Machine/Report.lean`), not into the state. -/

namespace Sys2Proof.Machine

/-- UNIMPLEMENTED, block 00 (R116, R191). -/
def execUnimplBlk00 (s : State) : Host.Outcome State Fault Refusal := .next (enterHalted s)

/-- UNIMPLEMENTED, block 10 (R116, R191). -/
def execUnimplBlk10 (s : State) : Host.Outcome State Fault Refusal := .next (enterHalted s)

/-- UNIMPLEMENTED, block 11 (R116, R191). -/
def execUnimplBlk11 (s : State) : Host.Outcome State Fault Refusal := .next (enterHalted s)

/-- UNIMPLEMENTED, block 01 with source codes 000 to 011 (R116, R191). -/
def execUnimplBlk01Src0 (s : State) : Host.Outcome State Fault Refusal := .next (enterHalted s)

/-- UNIMPLEMENTED, block 01 with source codes 100 and 101 (R116, R191). -/
def execUnimplBlk01Src4 (s : State) : Host.Outcome State Fault Refusal := .next (enterHalted s)

/-- UNIMPLEMENTED, block 01 with source code 111 (R116, R191). -/
def execUnimplBlk01Src7 (s : State) : Host.Outcome State Fault Refusal := .next (enterHalted s)

/-- UNIMPLEMENTED, the byte 0x76, which is no HALT instruction here (R115, R191, R192). -/
def execUnimpl76 (s : State) : Host.Outcome State Fault Refusal := .next (enterHalted s)

end Sys2Proof.Machine
end

