-- ==== Sys2Proof/Machine/Dispatch.lean ====
section
/-! DEFINITION. One arm per instruction. -/

namespace Sys2Proof.Machine

def exec (i : Instr) (s : State) : Host.Outcome State Fault Refusal :=
  match i with
  | .ldBHl => Sys2Proof.Machine.execLdBHl s
  | .ldCHl => Sys2Proof.Machine.execLdCHl s
  | .ldDHl => Sys2Proof.Machine.execLdDHl s
  | .ldEHl => Sys2Proof.Machine.execLdEHl s
  | .ldHHl => Sys2Proof.Machine.execLdHHl s
  | .ldLHl => Sys2Proof.Machine.execLdLHl s
  | .ldAHl => Sys2Proof.Machine.execLdAHl s
  | .unimplBlk00 _ => Sys2Proof.Machine.execUnimplBlk00 s
  | .unimplBlk10 _ => Sys2Proof.Machine.execUnimplBlk10 s
  | .unimplBlk11 _ => Sys2Proof.Machine.execUnimplBlk11 s
  | .unimplBlk01Src0 _ => Sys2Proof.Machine.execUnimplBlk01Src0 s
  | .unimplBlk01Src4 _ => Sys2Proof.Machine.execUnimplBlk01Src4 s
  | .unimplBlk01Src7 _ => Sys2Proof.Machine.execUnimplBlk01Src7 s
  | .unimpl76 => Sys2Proof.Machine.execUnimpl76 s

end Sys2Proof.Machine
end

