-- ==== Sys2Proof/Machine/Step.lean ====
section
/-! DEFINITION. One step (40_fetch_execute.md R140): nothing while Halted; else fetch at PC, decode, execute. -/

namespace Sys2Proof.Machine

/-- One step. A step while Halted makes no access and changes nothing (R150). -/
def step (s : State) : Host.Outcome State Fault Refusal :=
  match s.run with
  | .halted => .next s
  | .running => exec (fetchInstr s) s

/-- `s` with the instruction of table word `w` where the next step fetches it. -/
def State.withFetchWord (s : State) (nbits w : Nat) : State :=
  placeOpcode s (BitVec.ofNat 8 (w % 2 ^ nbits))

end Sys2Proof.Machine
end

