-- ==== Sys2Proof/Machine/Report.lean ====
section
/-! DEFINITION. What a step gives its caller beside the new state: its result and machine-cycle count (40_fetch_execute.md R147,
70_reset_and_hazards.md R252), and its bus accesses in order (R148). Outputs, not state (10_state.md R38; log entry 17). And the
step as the pseudocode of R140 gives it, from operation descriptors. -/

namespace Sys2Proof.Machine

/-- The result of executing one instruction at the state before the step: a load reports its cycles (R170), an unmapped opcode
its byte and the PC it was fetched at (R191, R201). -/
def execResult (i : Instr) (s : State) : StepResult :=
  match i with
  | .ldBHl => .ok s.cfg.cyclesLdRHl
  | .ldCHl => .ok s.cfg.cyclesLdRHl
  | .ldDHl => .ok s.cfg.cyclesLdRHl
  | .ldEHl => .ok s.cfg.cyclesLdRHl
  | .ldHHl => .ok s.cfg.cyclesLdRHl
  | .ldLHl => .ok s.cfg.cyclesLdRHl
  | .ldAHl => .ok s.cfg.cyclesLdRHl
  | .unimplBlk00 opcode => .err (.unimplementedOpcode opcode s.pc)
  | .unimplBlk10 opcode => .err (.unimplementedOpcode opcode s.pc)
  | .unimplBlk11 opcode => .err (.unimplementedOpcode opcode s.pc)
  | .unimplBlk01Src0 opcode => .err (.unimplementedOpcode opcode s.pc)
  | .unimplBlk01Src4 opcode => .err (.unimplementedOpcode opcode s.pc)
  | .unimplBlk01Src7 opcode => .err (.unimplementedOpcode opcode s.pc)
  | .unimpl76 => .err (.unimplementedOpcode 0x76#8 s.pc)

/-- The result of a step (R147). -/
def stepResult (s : State) : StepResult :=
  match s.run with
  | .halted => .idle
  | .running => execResult (fetchInstr s) s

/-- The machine cycles of a result, 0 where none is reported (R147, R252). -/
def StepResult.cycles : StepResult → Nat
  | .ok n => n
  | .err _ => 0
  | .idle => 0

/-- The bus accesses of executing one instruction after its fetch (R148): a load reads at HL, an unmapped opcode does nothing. -/
def execAccesses (i : Instr) (s : State) : List BusAccess :=
  match i with
  | .ldBHl => [.read (addressHl s)]
  | .ldCHl => [.read (addressHl s)]
  | .ldDHl => [.read (addressHl s)]
  | .ldEHl => [.read (addressHl s)]
  | .ldHHl => [.read (addressHl s)]
  | .ldLHl => [.read (addressHl s)]
  | .ldAHl => [.read (addressHl s)]
  | .unimplBlk00 _ => []
  | .unimplBlk10 _ => []
  | .unimplBlk11 _ => []
  | .unimplBlk01Src0 _ => []
  | .unimplBlk01Src4 _ => []
  | .unimplBlk01Src7 _ => []
  | .unimpl76 => []

/-- The bus accesses of a step, in order (R148): none while Halted; else the fetch at PC, then the instruction's own. -/
def stepAccesses (s : State) : List BusAccess :=
  match s.run with
  | .halted => []
  | .running => .read s.pc :: execAccesses (fetchInstr s) s

/-- `DecodeAt(pc)` (30_encoding.md R120): the descriptor of the byte at `pc`, which may differ from PC. No register is read. -/
def decodeAt (s : State) (pc : Word) : Descriptor :=
  (decodeOpcode (busRead s pc)).descriptor s.cfg.cyclesLdRHl pc

/-- The Execution Engine on a descriptor (40_fetch_execute.md R140, R144): the result and the new state. `none` is a descriptor
shape that the Decoder never produces and no rule gives an effect (R114, R144). -/
def engine (d : Descriptor) (s : State) : Option (StepResult × State) :=
  match d with
  | .unimplementedOpcode opcode pc => some (.err (.unimplementedOpcode opcode pc), { s with run := .halted })
  | .op ⟨.load8, .reg c, .indirectHl, cycles, length⟩ =>
    match regOfCode c with
    | some r =>
      some (.ok cycles, { writeReg s (busRead s (get16 s .hl)) r with pc := s.pc + BitVec.ofNat 16 length })
    | none => none
  | .op _ => none

/-- `Step()` as the pseudocode of R140 writes it. -/
def descriptorStep (s : State) : Option (StepResult × State) :=
  if s.run = .halted then some (.idle, s) else engine (decodeAt s s.pc) s

end Sys2Proof.Machine
end

