-- ==== Sys2Proof/Machine/HostMoves.lean ====
section
/-! DEFINITION. The host's moves (00_scope.md R4), each falling between two steps (D19): bank select, ROM load, and the session in
which a host constructs, loads, steps, resumes, accesses and discards a CPU. -/

namespace Sys2Proof.Machine

/-- `SelectBank(region, n)` (20_memory.md R80): stores a selector and nothing else, or is refused and changes nothing. -/
def selectBank (s : State) (region : Region) (bank : Nat) : Host.Outcome State Fault Refusal :=
  match region with
  | .romN =>
    if bank < s.cfg.romBankCount then .next { s with romBank := bank }
    else .refused (.bankNotSelectable region bank)
  | .vram =>
    if s.cfg.cgbMode ∧ bank ≤ 1 then .next { s with vramBank := bank }
    else .refused (.bankNotSelectable region bank)
  | .wramN =>
    if s.cfg.cgbMode ∧ 1 ≤ bank ∧ bank ≤ 7 then .next { s with wramBank := bank }
    else .refused (.bankNotSelectable region bank)
  | .rom0 => .refused (.bankNotSelectable region bank)
  | .extram => .refused (.bankNotSelectable region bank)
  | .wram0 => .refused (.bankNotSelectable region bank)
  | .echo => .refused (.bankNotSelectable region bank)
  | .oam => .refused (.bankNotSelectable region bank)
  | .unusable => .refused (.bankNotSelectable region bank)
  | .io => .refused (.bankNotSelectable region bank)
  | .hram => .refused (.bankNotSelectable region bank)
  | .ie => .refused (.bankNotSelectable region bank)

/-- `LoadRom(buf)` (70_reset_and_hazards.md R243, R244): the buffer from index 0, zero beyond it; too long a buffer is rejected before
any byte is copied. When a load may happen is the session's rule (R245). -/
def loadRom (s : State) (buf : List Byte) : Host.Outcome State Fault Refusal :=
  if buf.length ≤ s.cfg.maxRomSize then .next { s with rom := Memory.ofBytesFrom 0 buf }
  else .fault (.romTooLarge buf.length)

/-- The host's moves (00_scope.md R4), and no others. -/
inductive HostMove where
  | construct (cfg : Config)
  | loadRom (buf : List Byte)
  | step
  | resume
  | busRead (addr : Word)
  | busWrite (addr : Word) (v : Byte)
  | get8 (sel : RegSel)
  | set8 (sel : RegSel) (v : Byte)
  | get16 (pair : Pair)
  | set16 (pair : Pair) (w : Word)
  | getFlag (flag : Flag)
  | setFlag (flag : Flag) (on : Bool)
  | selectBank (region : Region) (bank : Nat)
  | discard
deriving DecidableEq, Repr

/-- What a host's move returns to it. -/
inductive MoveResult where
  | done
  | byte (v : Byte)
  | word (w : Word)
  | flag (on : Bool)
  | stepped (result : StepResult)
  /-- A write the attached `IoWrite` hook took (20_memory.md R75): the peripheral gets the offset and the byte. -/
  | ioTaken (offset : Nat) (v : Byte)
  | error (r : Fault)
  | refused (r : Refusal)
deriving DecidableEq, Repr

/-- The host's own record: the CPU it holds, if any, and whether a step has been taken on it. The second is a fact about the order of
the host's moves, not a flag of the core (R245). -/
structure Session where
  cpu : Option State
  stepped : Bool
deriving DecidableEq, Repr

/-- A host before it constructs anything. -/
def Session.start : Session := { cpu := none, stepped := false }

/-- What a bus write returns: whether an attached `IoWrite` hook took it (R75). -/
def busWriteResult (s : State) (addr : Word) (v : Byte) : MoveResult :=
  match busTarget s addr with
  | .io offset => if (ioWriteAnswer s offset v).isSome then .ioTaken offset v else .done
  | _ => .done

/-- A move that answers with an outcome of the core: a fault or a refusal leaves the session as it was. -/
def Session.settle (x : Session) (stepped : Bool) (result : MoveResult) :
    Host.Outcome State Fault Refusal → MoveResult × Session
  | .next t => (result, { cpu := some t, stepped := stepped })
  | .fault r => (.error r, x)
  | .refused r => (.refused r, x)

/-- A move on an existing CPU `s`. DESIGN CHOICE (log entry 28): a construction while the session still holds an instance puts the new
one in its place, with no step taken on it, and the old one is gone as after a discard; R242 says only that the host starts again
by constructing a new instance. -/
def Session.onCpu (x : Session) (s : State) : HostMove → MoveResult × Session
  | .construct cfg => (.done, { cpu := some (State.construct cfg), stepped := false })
  | .loadRom buf =>
    if x.stepped then (.refused .romLoadAfterFirstStep, x)
    else x.settle false .done (Sys2Proof.Machine.loadRom s buf)
  | .step => x.settle true (.stepped (stepResult s)) (Sys2Proof.Machine.step s)
  | .resume => (.done, { x with cpu := some (Sys2Proof.Machine.resume s) })
  | .busRead addr => (.byte (Sys2Proof.Machine.busRead s addr), x)
  | .busWrite addr v => (busWriteResult s addr v, { x with cpu := some (Sys2Proof.Machine.busWrite s addr v) })
  | .get8 sel =>
    match Sys2Proof.Machine.get8 s sel with
    | .ok v => (.byte v, x)
    | .error r => (.error r, x)
  | .set8 sel v =>
    match Sys2Proof.Machine.set8 s v sel with
    | .ok t => (.done, { x with cpu := some t })
    | .error r => (.error r, x)
  | .get16 pair => (.word (Sys2Proof.Machine.get16 s pair), x)
  | .set16 pair w => (.done, { x with cpu := some (Sys2Proof.Machine.set16 s w pair) })
  | .getFlag flag => (.flag (Sys2Proof.Machine.getFlag s flag), x)
  | .setFlag flag on => (.done, { x with cpu := some (Sys2Proof.Machine.setFlag s flag on) })
  | .selectBank region bank => x.settle x.stepped .done (Sys2Proof.Machine.selectBank s region bank)
  | .discard => (.done, Session.start)

/-- A move of the host. Without a CPU only construction means anything (R248). -/
def Session.move (x : Session) (m : HostMove) : MoveResult × Session :=
  match x.cpu, m with
  | some s, m => x.onCpu s m
  | none, .construct cfg => (.done, { cpu := some (State.construct cfg), stepped := false })
  | none, _ => (.refused .noCpu, x)

/-- The session after a sequence of moves. -/
def Session.after (x : Session) : List HostMove → Session
  | [] => x
  | m :: ms => Session.after (x.move m).2 ms

end Sys2Proof.Machine
end

