-- ==== Sys2Proof/Safety.lean ====
section
/-! DEFINITION. The terms claims use: the invariant of reachable states (10_state.md R42), what a host's moves may be for a claim,
reachability, and the steps left before a run must end (40_fetch_execute.md R154). -/

namespace Sys2Proof.Machine

/-- The selectors lie in their legal ranges (R42 (b), R35). -/
abbrev State.BanksLegal (s : State) : Prop :=
  s.romBank < s.cfg.romBankCount ∧ s.vramBank ≤ 1 ∧ 1 ≤ s.wramBank ∧ s.wramBank ≤ 7

/-- Every store is in its canonical form and inside its size (20_memory.md R81). -/
abbrev State.StoresCanonical (s : State) : Prop :=
  (s.rom.wf ∧ s.rom.within s.cfg.maxRomSize) ∧ (s.vram.wf ∧ s.vram.within 0x4000) ∧
  (s.extram.wf ∧ s.extram.within (if s.cfg.extRamPresent then 0x2000 else 0)) ∧
  (s.wram.wf ∧ s.wram.within 0x8000) ∧ (s.oam.wf ∧ s.oam.within 0xA0) ∧ (s.hram.wf ∧ s.hram.within 0x7F)

/-- The invariant of every reachable state (R42 (a), (b)), with the form of the stores. `run` is one of two values by its type (R42 (d)). -/
abbrev State.Inv (s : State) : Prop :=
  s.f &&& 0x0F#8 = 0#8 ∧ s.BanksLegal ∧ s.StoresCanonical ∧ s.cfg.wf

/-- Construction is given legal parameters (00_scope.md R8). -/
def HostMove.legal : HostMove → Bool
  | .construct cfg => cfg.wf
  | _ => true

/-- Moves that keep the CPU instance and do not resume it. -/
def HostMove.keepsHalt : HostMove → Bool
  | .construct _ => false
  | .resume => false
  | .discard => false
  | _ => true

/-- Steps in a sequence of moves. -/
def stepCount (ms : List HostMove) : Nat := ms.countP (fun m => decide (m = .step))

/-- The most steps a run from `s` can take before it is Halted (40_fetch_execute.md R154). -/
def stepsToHalt (s : State) : Nat := (0xFEA0#16 - s.pc).toNat + 1

/-- A CPU state that some sequence of legal moves reaches from nothing (R42, R154). -/
def Reachable (s : State) : Prop :=
  ∃ ms : List HostMove, ms.all HostMove.legal = true ∧ (Session.start.after ms).cpu = some s

end Sys2Proof.Machine
end

