-- ==== Sys2Proof/Certificates/Slice0/Obligations.lean ====
section
/-! DEFINITION. The statements. A docstring names the rule of spec/ a statement formalises; where a clause rests on a decision the
spec marks as its own, or on a choice of the model, it says so. Wherever a step is said to leave all else as it was, the state of a peripheral
attached to the I/O window is meant too: that a read does not move it is the model's choice (log entry 14). -/

open Sys2Proof Sys2Proof.Machine

/-! ### The register file -/

/-- 10_state.md R26: the register code table, read and written; 110 is an error and changes nothing; no code selects F; no decoded
instruction passes 110. -/
def Obligations.RegisterCodesSelectRegisters : Prop :=
  (∀ s : State,
    get8 s (.code 0b000#3) = .ok s.b ∧ get8 s (.code 0b001#3) = .ok s.c ∧ get8 s (.code 0b010#3) = .ok s.d ∧
    get8 s (.code 0b011#3) = .ok s.e ∧ get8 s (.code 0b100#3) = .ok s.h ∧ get8 s (.code 0b101#3) = .ok s.l ∧
    get8 s (.code 0b111#3) = .ok s.a ∧ get8 s (.code 0b110#3) = .error (.invalidRegisterCode 0b110#3)) ∧
  (∀ (s : State) (v : Byte),
    set8 s v (.code 0b000#3) = .ok { s with b := v } ∧ set8 s v (.code 0b001#3) = .ok { s with c := v } ∧
    set8 s v (.code 0b010#3) = .ok { s with d := v } ∧ set8 s v (.code 0b011#3) = .ok { s with e := v } ∧
    set8 s v (.code 0b100#3) = .ok { s with h := v } ∧ set8 s v (.code 0b101#3) = .ok { s with l := v } ∧
    set8 s v (.code 0b111#3) = .ok { s with a := v } ∧
    set8 s v (.code 0b110#3) = .error (.invalidRegisterCode 0b110#3)) ∧
  (∀ (s t : State) (c : Code) (v : Byte), set8 s v (.code c) = .ok t → t.f = s.f) ∧
  (∀ (b : Byte) (cycles : Nat) (pc : Word) (o : OpDescriptor),
    (decodeOpcode b).descriptor cycles pc = .op o → o.dst ≠ .reg 0b110#3 ∧ o.src ≠ .reg 0b110#3)

/-- 10_state.md R21, R25: a general register is plain 8-bit storage; `set8` then `get8` gives the byte, every other register keeps its
own, and nothing but the general registers changes. -/
def Obligations.RegisterWriteReadsBack : Prop :=
  ∀ (s : State) (c : Code) (v : Byte), c ≠ 0b110#3 →
    ∃ t : State, set8 s v (.code c) = .ok t ∧ get8 t (.code c) = .ok v ∧
      (∀ c' : Code, c' ≠ c → get8 t (.code c') = get8 s (.code c')) ∧
      t = { s with a := t.a, b := t.b, c := t.c, d := t.d, e := t.e, h := t.h, l := t.l }

/-- 10_state.md R22, R27: bits 3:0 of F are 0 whatever is written to F or AF, at reset, and after every flag write; a write of F as a byte
changes nothing but F. That F is reached by a selector outside the 3-bit codes is D23 (log entry 23). -/
def Obligations.FlagRegisterLowNibbleZero : Prop :=
  (∀ s : State, get8 s .fCode = .ok s.f) ∧
  (∀ (s : State) (v : Byte), ∃ t : State, set8 s v .fCode = .ok t ∧ t = { s with f := t.f } ∧ t.f = v &&& 0xF0#8 ∧
    t.f &&& 0x0F#8 = 0#8 ∧ get8 t .fCode = .ok (v &&& 0xF0#8)) ∧
  (∀ (s : State) (w : Word), (set16 s w .af).f = w.extractLsb' 0 8 &&& 0xF0#8 ∧ (set16 s w .af).f &&& 0x0F#8 = 0#8) ∧
  (∀ (s : State) (flag : Flag) (on : Bool), s.f &&& 0x0F#8 = 0#8 → (setFlag s flag on).f &&& 0x0F#8 = 0#8) ∧
  (∀ cfg : Config, (State.construct cfg).f = 0#8)

/-- 10_state.md R24: a pair is a view of its two slots, the first-named one the high byte. -/
def Obligations.PairsAreViews : Prop :=
  (∀ s : State,
    (get16 s .af).toNat = s.a.toNat * 256 + s.f.toNat ∧ (get16 s .bc).toNat = s.b.toNat * 256 + s.c.toNat ∧
    (get16 s .de).toNat = s.d.toNat * 256 + s.e.toNat ∧ (get16 s .hl).toNat = s.h.toNat * 256 + s.l.toNat) ∧
  (∀ (s t u : State) (h l : Byte), set8 s h (.code 0b100#3) = .ok t → set8 t l (.code 0b101#3) = .ok u →
    (get16 u .hl).toNat = h.toNat * 256 + l.toNat)

/-- 10_state.md R28, R29: `get16` composes the two slots and `set16` decomposes into them, both together, nothing else; AF masks bits 3:0
of its low byte. -/
def Obligations.SetPairWritesBothHalves : Prop :=
  (∀ s : State,
    (get16 s .bc).toNat = s.b.toNat * 256 + s.c.toNat ∧ (get16 s .de).toNat = s.d.toNat * 256 + s.e.toNat ∧
    (get16 s .hl).toNat = s.h.toNat * 256 + s.l.toNat ∧ (get16 s .af).toNat = s.a.toNat * 256 + s.f.toNat) ∧
  (∀ (s : State) (w : Word),
    set16 s w .bc = { s with b := w.extractLsb' 8 8, c := w.extractLsb' 0 8 } ∧
    set16 s w .de = { s with d := w.extractLsb' 8 8, e := w.extractLsb' 0 8 } ∧
    set16 s w .hl = { s with h := w.extractLsb' 8 8, l := w.extractLsb' 0 8 } ∧
    set16 s w .af = { s with a := w.extractLsb' 8 8, f := w.extractLsb' 0 8 &&& 0xF0#8 }) ∧
  (∀ (s : State) (w : Word),
    get16 (set16 s w .bc) .bc = w ∧ get16 (set16 s w .de) .de = w ∧ get16 (set16 s w .hl) .hl = w ∧
    get16 (set16 s w .af) .af &&& 0x000F#16 = 0#16 ∧ get16 (set16 s w .af) .af &&& 0xFFF0#16 = w &&& 0xFFF0#16)

/-- 10_state.md R30, R27: a flag write touches its own bit only and nothing but F; F as a byte reads back masked. Rests on D23 (the
selector of F is outside the code space) and on the spec's own inference that bits 3:0 stay 0. -/
def Obligations.FlagWriteTouchesOneBit : Prop :=
  ∀ (s : State) (flag : Flag) (on : Bool),
    getFlag (setFlag s flag on) flag = on ∧
    (∀ other : Flag, other ≠ flag → getFlag (setFlag s flag on) other = getFlag s other) ∧
    setFlag s flag on = { s with f := (setFlag s flag on).f } ∧
    (setFlag s flag on).f &&& 0x0F#8 = s.f &&& 0x0F#8 ∧
    get8 (setFlag s flag on) .fCode = .ok (setFlag s flag on).f ∧
    (getFlag s .z = s.f.getLsbD 7 ∧ getFlag s .n = s.f.getLsbD 6 ∧ getFlag s .h = s.f.getLsbD 5 ∧ getFlag s .c = s.f.getLsbD 4)

/-! ### The bus -/

/-- 20_memory.md R65: the decode function, arm by arm. -/
def Obligations.AddressDecodeFollowsMap : Prop :=
  ∀ addr : Word,
    (addr.toNat ≤ 0x3FFF → decodeAddress addr = (.rom0, addr.toNat)) ∧
    (0x4000 ≤ addr.toNat → addr.toNat ≤ 0x7FFF → decodeAddress addr = (.romN, addr.toNat - 0x4000)) ∧
    (0x8000 ≤ addr.toNat → addr.toNat ≤ 0x9FFF → decodeAddress addr = (.vram, addr.toNat - 0x8000)) ∧
    (0xA000 ≤ addr.toNat → addr.toNat ≤ 0xBFFF → decodeAddress addr = (.extram, addr.toNat - 0xA000)) ∧
    (0xC000 ≤ addr.toNat → addr.toNat ≤ 0xCFFF → decodeAddress addr = (.wram0, addr.toNat - 0xC000)) ∧
    (0xD000 ≤ addr.toNat → addr.toNat ≤ 0xDFFF → decodeAddress addr = (.wramN, addr.toNat - 0xD000)) ∧
    (0xE000 ≤ addr.toNat → addr.toNat ≤ 0xFDFF → decodeAddress addr = (.echo, addr.toNat - 0xE000)) ∧
    (0xFE00 ≤ addr.toNat → addr.toNat ≤ 0xFE9F → decodeAddress addr = (.oam, addr.toNat - 0xFE00)) ∧
    (0xFEA0 ≤ addr.toNat → addr.toNat ≤ 0xFEFF → decodeAddress addr = (.unusable, addr.toNat - 0xFEA0)) ∧
    (0xFF00 ≤ addr.toNat → addr.toNat ≤ 0xFF7F → decodeAddress addr = (.io, addr.toNat - 0xFF00)) ∧
    (0xFF80 ≤ addr.toNat → addr.toNat ≤ 0xFFFE → decodeAddress addr = (.hram, addr.toNat - 0xFF80)) ∧
    (addr.toNat = 0xFFFF → decodeAddress addr = (.ie, 0))

/-- 20_memory.md R63, R64: every address lies in exactly one of the twelve regions, and that region is the one it decodes to, at its
offset from the region's first address. The exclusivity is the spec's own inference from the map. -/
def Obligations.RegionsPartitionAddressSpace : Prop :=
  ∀ addr : Word,
    (∃! r : Region, r.first ≤ addr.toNat ∧ addr.toNat < r.first + r.size) ∧
    (∀ r : Region, r.first ≤ addr.toNat → addr.toNat < r.first + r.size →
      decodeAddress addr = (r, addr.toNat - r.first))

/-- 20_memory.md R72: the echo of work RAM, in both directions, where it leads, and that DE00–DFFF has none. -/
def Obligations.EchoMirrorsWorkRam : Prop :=
  ∀ (s : State) (addr : Word), 0xE000 ≤ addr.toNat → addr.toNat ≤ 0xFDFF →
    busRead s addr = busRead s (addr - 0x2000#16) ∧
    (∀ v : Byte, busWrite s addr v = busWrite s (addr - 0x2000#16) v) ∧
    (addr.toNat ≤ 0xEFFF → busTarget s addr = .wram (addr.toNat - 0xE000)) ∧
    (0xF000 ≤ addr.toNat → busTarget s addr = .wram (s.wramBank * 0x1000 + (addr.toNat - 0xF000))) ∧
    (s.Inv →
      (∀ v : Byte, busRead (busWrite s addr v) (addr - 0x2000#16) = v ∧
        busRead (busWrite s (addr - 0x2000#16) v) addr = v) ∧
      (∀ high : Word, 0xDE00 ≤ high.toNat → high.toNat ≤ 0xDFFF → busTarget s high ≠ busTarget s addr))

/-- 20_memory.md R70: work RAM bank 0 at C000–CFFF, whatever the selector. -/
def Obligations.WorkRamBankZeroIsFixed : Prop :=
  ∀ (s : State) (addr : Word), 0xC000 ≤ addr.toNat → addr.toNat ≤ 0xCFFF →
    busRead s addr = s.wram.read (addr.toNat - 0xC000) ∧
    (∀ v : Byte, busWrite s addr v = { s with wram := s.wram.write (addr.toNat - 0xC000) v }) ∧
    (∀ bank : Nat, busRead { s with wramBank := bank } addr = busRead s addr)

/-- 20_memory.md R68, R71: the switchable VRAM and work-RAM windows show the selected bank, and outside CGB mode the selectors cannot be
changed. Where the selectors start rests on D11. -/
def Obligations.SwitchableRamWindows : Prop :=
  ∀ (s : State) (addr : Word),
    (0x8000 ≤ addr.toNat → addr.toNat ≤ 0x9FFF →
      busRead s addr = s.vram.read (s.vramBank * 0x2000 + (addr.toNat - 0x8000)) ∧
      ∀ v : Byte, busWrite s addr v = { s with vram := s.vram.write (s.vramBank * 0x2000 + (addr.toNat - 0x8000)) v }) ∧
    (0xD000 ≤ addr.toNat → addr.toNat ≤ 0xDFFF →
      busRead s addr = s.wram.read (s.wramBank * 0x1000 + (addr.toNat - 0xD000)) ∧
      ∀ v : Byte, busWrite s addr v = { s with wram := s.wram.write (s.wramBank * 0x1000 + (addr.toNat - 0xD000)) v }) ∧
    (s.cfg.cgbMode = false → ∀ bank : Nat,
      selectBank s .vram bank = .refused (.bankNotSelectable .vram bank) ∧
      selectBank s .wramN bank = .refused (.bankNotSelectable .wramN bank)) ∧
    ((State.construct s.cfg).vramBank = s.cfg.vramBankReset ∧ (State.construct s.cfg).wramBank = s.cfg.wramBankReset)

/-- 20_memory.md R66, R67: the ROM windows; that a write is discarded is D14. -/
def Obligations.RomWindowsReadOnly : Prop :=
  ∀ (s : State) (addr : Word),
    (addr.toNat ≤ 0x3FFF → busRead s addr = s.rom.read addr.toNat ∧ ∀ v : Byte, busWrite s addr v = s) ∧
    (0x4000 ≤ addr.toNat → addr.toNat ≤ 0x7FFF →
      busRead s addr = s.rom.read (s.romBank * 0x4000 + (addr.toNat - 0x4000)) ∧ ∀ v : Byte, busWrite s addr v = s)

/-- 20_memory.md R69: external RAM, absent or present; the form it has when present is D13. -/
def Obligations.ExternalRamPresentOrAbsent : Prop :=
  ∀ (s : State) (addr : Word), 0xA000 ≤ addr.toNat → addr.toNat ≤ 0xBFFF →
    (s.cfg.extRamPresent = false → busRead s addr = 0xFF#8 ∧ ∀ v : Byte, busWrite s addr v = s) ∧
    (s.cfg.extRamPresent = true → busRead s addr = s.extram.read (addr.toNat - 0xA000) ∧
      ∀ v : Byte, busWrite s addr v = { s with extram := s.extram.write (addr.toNat - 0xA000) v })

/-- 20_memory.md R74: the Unusable range reads 0xFF and discards writes. -/
def Obligations.UnusableRangeReadsFallback : Prop :=
  ∀ (s : State) (addr : Word), 0xFEA0 ≤ addr.toNat → addr.toNat ≤ 0xFEFF →
    busRead s addr = 0xFF#8 ∧ ∀ v : Byte, busWrite s addr v = s ∧ busRead (busWrite s addr v) addr = 0xFF#8

/-- 20_memory.md R75: the I/O window reads 0xFF where the `IoRead` hook declines, and what it answers where it answers; a write the
`IoWrite` hook declines changes nothing, one it takes changes the peripheral's state and nothing else, and the host is told which; with
nothing attached both decline. The hooks are D16, and their form as finite tables is the model's (log entry 14). -/
def Obligations.IoWindowFallsBack : Prop :=
  ∀ (s : State) (addr : Word), 0xFF00 ≤ addr.toNat → addr.toNat ≤ 0xFF7F →
    let offset := addr.toNat - 0xFF00
    ((∀ v : Byte, ⟨s.ioState, offset, v⟩ ∉ s.cfg.ioRead) → busRead s addr = 0xFF#8) ∧
    (∀ v : Byte, ioReadAnswer s offset = some v → busRead s addr = v ∧ ⟨s.ioState, offset, v⟩ ∈ s.cfg.ioRead) ∧
    (∀ v : Byte, (∀ next : Nat, ⟨s.ioState, offset, v, next⟩ ∉ s.cfg.ioWrite) →
      busWrite s addr v = s ∧ busWriteResult s addr v = .done) ∧
    (∀ (v : Byte) (next : Nat), ioWriteAnswer s offset v = some next →
      busWrite s addr v = { s with ioState := next } ∧ busWriteResult s addr v = .ioTaken offset v ∧
      ⟨s.ioState, offset, v, next⟩ ∈ s.cfg.ioWrite) ∧
    (s.cfg.ioRead = [] → busRead s addr = 0xFF#8) ∧
    (s.cfg.ioWrite = [] → ∀ v : Byte, busWrite s addr v = s ∧ busWriteResult s addr v = .done)

/-- 20_memory.md R73, R76, R77: OAM, HRAM and the Interrupt Enable register are read-write storage (that they own storage is D15; that all
eight bits of `ie` are kept is D17). -/
def Obligations.OamHramAndInterruptEnableAreStorage : Prop :=
  ∀ (s : State) (addr : Word),
    (0xFE00 ≤ addr.toNat → addr.toNat ≤ 0xFE9F → busRead s addr = s.oam.read (addr.toNat - 0xFE00) ∧
      ∀ v : Byte, busWrite s addr v = { s with oam := s.oam.write (addr.toNat - 0xFE00) v }) ∧
    (0xFF80 ≤ addr.toNat → addr.toNat ≤ 0xFFFE → busRead s addr = s.hram.read (addr.toNat - 0xFF80) ∧
      ∀ v : Byte, busWrite s addr v = { s with hram := s.hram.write (addr.toNat - 0xFF80) v }) ∧
    (addr.toNat = 0xFFFF → busRead s addr = s.ie ∧ ∀ v : Byte, busWrite s addr v = { s with ie := v })

/-- 20_memory.md R62: a bus write stores its byte in the one byte the address resolves to, or is discarded whole; every address that
resolves elsewhere reads as before, nothing but the RAM stores and `ie` changes, and no step writes. A write in the I/O window that an
attached hook takes (D16) moves the peripheral's state alone, and may change what other I/O offsets answer (log entry 14). -/
def Obligations.BusWriteStoresOneByteOrNone : Prop :=
  (∀ (s : State) (addr : Word) (v : Byte), s.Inv →
    ((busTarget s addr).writable = true → busRead (busWrite s addr v) addr = v) ∧
    ((busTarget s addr).writable = false → ioTakes s v (busTarget s addr) = false → busWrite s addr v = s) ∧
    (ioTakes s v (busTarget s addr) = true → busWrite s addr v = { s with ioState := (busWrite s addr v).ioState }) ∧
    (∀ other : Target, other ≠ busTarget s addr → ioTakes s v (busTarget s addr) = false ∨ other.isIo = false →
      readTarget (busWrite s addr v) other = readTarget s other) ∧
    busWrite s addr v = { s with
      ioState := (busWrite s addr v).ioState, vram := (busWrite s addr v).vram, extram := (busWrite s addr v).extram, wram := (busWrite s addr v).wram,
      oam := (busWrite s addr v).oam, hram := (busWrite s addr v).hram, ie := (busWrite s addr v).ie }) ∧
  (∀ (s t : State), step s = .next t →
    (∀ addr v, BusAccess.write addr v ∉ stepAccesses s) ∧ ∀ target : Target, readTarget t target = readTarget s target)

/-- 20_memory.md R87: a read changes nothing, reads with no write, bank select or ROM load between them agree, a write repeated is
the write done once, and a discarded write has no effect at all. R87 leaves a read side effect of an attached `IoRead` hook outside the
core; that two reads agree with a hook attached, and that only a write it takes moves the peripheral, is D16 with log entry 14. -/
def Obligations.ReadsArePureAndWritesIdempotent : Prop :=
  (∀ (x : Session) (addr : Word), (x.move (.busRead addr)).2 = x) ∧
  (∀ (x : Session) (s : State) (ms : List HostMove) (addr : Word), x.cpu = some s →
    (∀ m ∈ ms, ¬ (∃ a v, m = .busWrite a v) ∧ ¬ (∃ r n, m = .selectBank r n) ∧ ¬ (∃ buf, m = .loadRom buf) ∧
      ¬ (∃ cfg, m = .construct cfg) ∧ m ≠ .discard) →
    ((x.after ms).move (.busRead addr)).1 = (x.move (.busRead addr)).1) ∧
  (∀ (s : State) (addr : Word) (v : Byte), s.Inv →
    let once := busWrite s addr v
    let twice := busWrite once addr v
    (ioTakes s v (busTarget s addr) = false → twice = once) ∧ twice = { once with ioState := twice.ioState }) ∧
  (∀ (s : State) (addr : Word) (v : Byte), (busTarget s addr).writable = false → ioTakes s v (busTarget s addr) = false →
    busWrite s addr v = s)

/-- 20_memory.md R79, its immutability part: only a ROM load writes the ROM; every other move of the host on the CPU it holds leaves
each byte of it. That a bus write to ROM is discarded is D14. -/
def Obligations.OnlyRomLoadWritesRom : Prop :=
  ∀ (x : Session) (s t : State) (m : HostMove), x.cpu = some s → (x.move m).2.cpu = some t →
    (∀ buf, m ≠ .loadRom buf) → (∀ cfg, m ≠ .construct cfg) → t.rom = s.rom

/-- 20_memory.md R80: bank select stores a legal selector and nothing else, and is refused otherwise. The ROM range and the refusal are
D11, the condition on CGB mode is D12. -/
def Obligations.BankSelectStoresOrRefuses : Prop :=
  ∀ (s : State) (n : Nat),
    (n < s.cfg.romBankCount → selectBank s .romN n = .next { s with romBank := n }) ∧
    (s.cfg.cgbMode = true → n ≤ 1 → selectBank s .vram n = .next { s with vramBank := n }) ∧
    (s.cfg.cgbMode = true → 1 ≤ n → n ≤ 7 → selectBank s .wramN n = .next { s with wramBank := n }) ∧
    (∀ r : Region, ¬ (r = .romN ∧ n < s.cfg.romBankCount) → ¬ (r = .vram ∧ s.cfg.cgbMode = true ∧ n ≤ 1) →
      ¬ (r = .wramN ∧ s.cfg.cgbMode = true ∧ 1 ≤ n ∧ n ≤ 7) → selectBank s r n = .refused (.bankNotSelectable r n))

/-! ### Construction and ROM load -/

/-- 70_reset_and_hazards.md R240, R241, 10_state.md R40: construction gives a zero-initialised, Running instance under every parameter, its
selectors at their reset parameters, and that instance accepts a ROM load that fits. That external RAM, OAM, HRAM and IE are storage that
starts at zero rests on D13 and D15 (log entries 11, 13), the selectors on D11 (log entry 9). That on a session which still holds an instance
the new one takes its place, with no step counted, is the model's choice (log entry 28). -/
def Obligations.ConstructionIsZeroInitialized : Prop :=
  ∀ (x : Session) (cfg : Config), ∃ s : State, (x.move (.construct cfg)) = (.done, { cpu := some s, stepped := false }) ∧
    (∀ r : Reg8, readReg s r = 0#8) ∧ s.f = 0#8 ∧ s.pc = 0#16 ∧ s.sp = 0#16 ∧ s.run = .running ∧ s.ie = 0#8 ∧ s.cfg = cfg ∧
    s.romBank = cfg.romBankReset ∧ s.vramBank = cfg.vramBankReset ∧ s.wramBank = cfg.wramBankReset ∧
    (∀ i : Nat, s.rom.read i = 0#8 ∧ s.vram.read i = 0#8 ∧ s.extram.read i = 0#8 ∧ s.wram.read i = 0#8 ∧
      s.oam.read i = 0#8 ∧ s.hram.read i = 0#8) ∧
    (∀ buf : List Byte, buf.length ≤ cfg.maxRomSize → ∃ t : State, loadRom s buf = .next t)

/-- 70_reset_and_hazards.md R243: ROM load puts byte `i` of the buffer in byte `i` of the ROM, zero beyond it, and changes nothing else. The
placement and the zero fill are D21. -/
def Obligations.RomLoadCopiesBuffer : Prop :=
  ∀ (s : State) (buf : List Byte), buf.length ≤ s.cfg.maxRomSize →
    ∃ t : State, loadRom s buf = .next t ∧ (∀ i : Nat, t.rom.read i = buf.getD i 0#8) ∧
      t = { s with rom := t.rom } ∧ t.rom.wf = true

/-- 60_exceptions.md R204: a buffer longer than MAX_ROM_SIZE is rejected with `RomTooLarge`, the session is left as it was and another load
may be tried; no step reports this error. The payload is D22, the order of loads D21. -/
def Obligations.OversizedRomIsRejected : Prop :=
  (∀ (x : Session) (s : State) (buf : List Byte), x.cpu = some s → x.stepped = false → s.cfg.maxRomSize < buf.length →
    x.move (.loadRom buf) = (.error (.romTooLarge buf.length), x) ∧
    ∀ retry : List Byte, retry.length ≤ s.cfg.maxRomSize →
      (((x.move (.loadRom buf)).2).move (.loadRom retry)).1 = .done) ∧
  (∀ (s : State) (n : Nat), stepResult s ≠ .err (.romTooLarge n) ∧ step s ≠ .fault (.romTooLarge n))

/-- 70_reset_and_hazards.md R245: once a step has been taken on an instance, a ROM load is refused and changes nothing, whatever other moves
come between (D21). -/
def Obligations.RomLoadRefusedAfterStep : Prop :=
  ∀ (x : Session) (s : State) (ms : List HostMove) (buf : List Byte), x.cpu = some s →
    (∀ m ∈ ms, (∀ cfg, m ≠ .construct cfg) ∧ m ≠ .discard) →
    let y := ((x.move .step).2).after ms
    y.move (.loadRom buf) = (.refused .romLoadAfterFirstStep, y)

/-- 70_reset_and_hazards.md R248: after a discard there is no instance, and no move but a new construction means anything; no other
move, a step among them, leaves the host without one. That a construction on an existing instance replaces it is log entry 28. -/
def Obligations.DiscardEndsTheInstance : Prop :=
  ∀ (x : Session) (s : State), x.cpu = some s →
    (∀ m : HostMove, m ≠ .discard → ∃ t : State, (x.move m).2.cpu = some t) ∧
    (x.move .discard).2.cpu = none ∧
    ∀ m : HostMove, (∀ cfg, m ≠ .construct cfg) →
      (x.move .discard).2.move m = (.refused .noCpu, (x.move .discard).2)

/-! ### The instructions -/

/-- 41_ld_r_hl.md R171, R172, R173, R174, R177: the loads of B, C, D, E and A complete from every state; the destination gets the byte at
HL, PC moves by one, nothing else changes (an attached peripheral too, log entry 14), and the cycles are reported. The wrap of PC at 0xFFFF
is D9. -/
def Obligations.LoadsOfPlainRegistersComplete : Prop :=
  ∀ s : State,
    exec .ldBHl s = .next { s with b := busRead s (get16 s .hl), pc := s.pc + 1#16 } ∧
    exec .ldCHl s = .next { s with c := busRead s (get16 s .hl), pc := s.pc + 1#16 } ∧
    exec .ldDHl s = .next { s with d := busRead s (get16 s .hl), pc := s.pc + 1#16 } ∧
    exec .ldEHl s = .next { s with e := busRead s (get16 s .hl), pc := s.pc + 1#16 } ∧
    exec .ldAHl s = .next { s with a := busRead s (get16 s .hl), pc := s.pc + 1#16 } ∧
    (∀ i ∈ [Instr.ldBHl, .ldCHl, .ldDHl, .ldEHl, .ldAHl], execResult i s = .ok s.cfg.cyclesLdRHl)

/-- 41_ld_r_hl.md R175, R176, R178: the loads of H and L complete from every state; the address is formed from H and L as they were, and HL
afterwards holds the loaded byte in its half. Nothing else changes, an attached peripheral too (log entry 14). The wrap of PC at 0xFFFF is D9. -/
def Obligations.LoadsOfAddressHalvesComplete : Prop :=
  ∀ s : State,
    exec .ldHHl s = .next { s with h := busRead s (get16 s .hl), pc := s.pc + 1#16 } ∧
    exec .ldLHl s = .next { s with l := busRead s (get16 s .hl), pc := s.pc + 1#16 } ∧
    execResult .ldHHl s = .ok s.cfg.cyclesLdRHl ∧ execResult .ldLHl s = .ok s.cfg.cyclesLdRHl ∧
    (∀ t : State, exec .ldHHl s = .next t → get16 t .hl = pairWord (busRead s (get16 s .hl)) s.l) ∧
    (∀ t : State, exec .ldLHl s = .next t → get16 t .hl = pairWord s.h (busRead s (get16 s .hl)))

/-- 41_ld_r_hl.md R170, 10_state.md R41: the frame of the seven loads. Every register but the destination, F with all its flags, SP, `run`,
the selectors, `ie` and every byte of memory stay. That the state of an attached peripheral stays, and so what the I/O addresses read with a
hook attached, is the model's choice (log entry 14, D16): R87 leaves a read side effect of a hook outside the core. -/
def Obligations.LoadFrame : Prop :=
  ∀ (i : Instr) (r : Reg8) (s t : State),
    (i, r) ∈ [(Instr.ldBHl, Reg8.b), (.ldCHl, .c), (.ldDHl, .d), (.ldEHl, .e), (.ldHHl, .h), (.ldLHl, .l), (.ldAHl, .a)] →
    exec i s = .next t →
      (∀ q : Reg8, q ≠ r → readReg t q = readReg s q) ∧ t.f = s.f ∧ (∀ flag, getFlag t flag = getFlag s flag) ∧
      t.sp = s.sp ∧ t.run = s.run ∧ t.romBank = s.romBank ∧ t.vramBank = s.vramBank ∧ t.wramBank = s.wramBank ∧
      t.ie = s.ie ∧ t.ioState = s.ioState ∧ t.cfg = s.cfg ∧ (∀ addr : Word, busRead t addr = busRead s addr) ∧
      (∀ target : Target, readTarget t target = readTarget s target)

/-- 41_ld_r_hl.md R179: the byte a load fetches, region by region, and that it may be its own opcode. Storage of OAM, HRAM and IE is D15, external
RAM is D13, the I/O window is D16 (log entry 14). -/
def Obligations.LoadedByteByRegion : Prop :=
  ∀ (r : Reg8) (s : State), ∃ t : State, exec (loadOfReg r) s = .next t ∧
    let n := (get16 s .hl).toNat
    (n ≤ 0x3FFF → readReg t r = s.rom.read n) ∧
    (0x4000 ≤ n → n ≤ 0x7FFF → readReg t r = s.rom.read (s.romBank * 0x4000 + (n - 0x4000))) ∧
    (0x8000 ≤ n → n ≤ 0x9FFF → readReg t r = s.vram.read (s.vramBank * 0x2000 + (n - 0x8000))) ∧
    (0xA000 ≤ n → n ≤ 0xBFFF → readReg t r = if s.cfg.extRamPresent then s.extram.read (n - 0xA000) else 0xFF#8) ∧
    (0xC000 ≤ n → n ≤ 0xCFFF → readReg t r = s.wram.read (n - 0xC000)) ∧
    (0xD000 ≤ n → n ≤ 0xDFFF → readReg t r = s.wram.read (s.wramBank * 0x1000 + (n - 0xD000))) ∧
    (0xE000 ≤ n → n ≤ 0xFDFF → readReg t r = busRead s (get16 s .hl - 0x2000#16)) ∧
    (0xFE00 ≤ n → n ≤ 0xFE9F → readReg t r = s.oam.read (n - 0xFE00)) ∧
    (0xFEA0 ≤ n → n ≤ 0xFEFF → readReg t r = 0xFF#8) ∧
    (0xFF00 ≤ n → n ≤ 0xFF7F → readReg t r = (ioReadAnswer s (n - 0xFF00)).getD 0xFF#8) ∧
    (0xFF00 ≤ n → n ≤ 0xFF7F → s.cfg.ioRead = [] → readReg t r = 0xFF#8) ∧
    (0xFF80 ≤ n → n ≤ 0xFFFE → readReg t r = s.hram.read (n - 0xFF80)) ∧
    (n = 0xFFFF → readReg t r = s.ie) ∧
    (get16 s .hl = s.pc → readReg t r = fetchOpcode s)

/-- 42_unmapped_opcodes.md R191: each of the seven UNIMPLEMENTED rows completes by taking its error: the loop goes to Halted, nothing else
changes, and the result carries the opcode byte and PC. That PC and the rest stay is D5, that the loop halts is D4. -/
def Obligations.UnmappedOpcodesTakeTheHalt : Prop :=
  ∀ (s : State) (b : Byte) (i : Instr),
    i ∈ [Instr.unimplBlk00 b, .unimplBlk10 b, .unimplBlk11 b, .unimplBlk01Src0 b, .unimplBlk01Src4 b, .unimplBlk01Src7 b, .unimpl76] →
      exec i s = .next { s with run := .halted } ∧
      execResult i s = .err (.unimplementedOpcode (encodeOpcode i) s.pc)

/-- 60_exceptions.md R207: on `UnimplementedOpcode` the step sets `run` to Halted and returns the error; nothing is saved, SP is not touched,
PC keeps the address of the offending opcode (that it does is D5). -/
def Obligations.TrapEntrySavesNothing : Prop :=
  ∀ (s : State) (opcode : Byte) (pc : Word), s.run = .running → decodeAt s s.pc = .unimplementedOpcode opcode pc →
    pc = s.pc ∧ opcode = busRead s s.pc ∧ step s = .next { s with run := .halted } ∧
    stepResult s = .err (.unimplementedOpcode opcode pc)

/-- 42_unmapped_opcodes.md R193: on an unmapped opcode only the opcode byte has been read, and the error holds that byte and PC, no more. -/
def Obligations.UnmappedOpcodeReadsOneByte : Prop :=
  ∀ (s : State) (opcode : Byte) (pc : Word), s.run = .running → decodeAt s s.pc = .unimplementedOpcode opcode pc →
    stepAccesses s = [.read s.pc] ∧ stepResult s = .err (.unimplementedOpcode (busRead s s.pc) s.pc)

/-- 42_unmapped_opcodes.md R194: after the halt the core stays Halted until resumed; a resume and a step halts again with the same error, and so
does a step from any Running state with the same PC in which the byte there is still the same; no host move writes PC. It rests
on D5 (PC did not move), D6 (a step while Halted) and D7 (the resume). -/
def Obligations.ResumeOnUnmappedHaltsAgain : Prop :=
  (∀ s t : State, s.run = .running → stepResult s = .err (.unimplementedOpcode (busRead s s.pc) s.pc) → step s = .next t →
    t.run = .halted ∧ step t = .next t ∧ step (resume t) = .next t ∧ stepResult (resume t) = stepResult s ∧
    ∀ u : State, u.run = .running → u.pc = t.pc → busRead u u.pc = busRead s s.pc →
      step u = .next { u with run := .halted } ∧ stepResult u = stepResult s) ∧
  (∀ (x : Session) (s t : State) (m : HostMove), x.cpu = some s → (x.move m).2.cpu = some t → m ≠ .step →
    (∀ cfg, m ≠ .construct cfg) → t.pc = s.pc)

/-- 60_exceptions.md R210: a halt cannot nest: with no resume, no sequence of moves on a Halted instance makes a step do anything or report a
second error (that such a step answers `Idle` is D6). -/
def Obligations.HaltDoesNotNest : Prop :=
  ∀ (x : Session) (s : State) (ms : List HostMove), x.cpu = some s → s.run = .halted → ms.all HostMove.keepsHalt = true →
    ∃ t : State, (x.after ms).cpu = some t ∧ t.run = .halted ∧ t.pc = s.pc ∧
      ((x.after ms).move .step).1 = .stepped .idle ∧ stepAccesses t = []

/-- 10_state.md R34: `run` starts as Running and is changed only by a step that meets an unmapped opcode and by the host's resume; the step
reads it, and no bus access does. That the loop halts is D4, the resume is D7 (log entry 5), and that a Halted step answers `Idle` is D6
(log entry 4). -/
def Obligations.LoopStateChangesOnlyByHaltAndResume : Prop :=
  (∀ cfg : Config, (State.construct cfg).run = .running) ∧
  (∀ (x : Session) (s t : State) (m : HostMove), x.cpu = some s → (x.move m).2.cpu = some t → (∀ cfg, m ≠ .construct cfg) →
    t.run ≠ s.run →
      (m = .step ∧ s.run = .running ∧ t.run = .halted ∧ decodeAt s s.pc = .unimplementedOpcode (busRead s s.pc) s.pc) ∨
      (m = .resume ∧ s.run = .halted ∧ t.run = .running)) ∧
  (∀ (s : State) (run : RunState) (addr : Word) (v : Byte),
    busRead { s with run := run } addr = busRead s addr ∧ (busWrite s addr v).run = s.run) ∧
  (∀ s : State, s.run = .halted ↔ stepResult s = .idle)

/-! ### The step -/

/-- The step runs the instruction the bytes at PC decode to (40_fetch_execute.md R140, R142): exec of it at that state, and its result; the
fetch changes nothing. -/
def Obligations.StepRunsDecodedInstruction : Prop :=
  ∀ (s : State) (i : Instr), s.run = .running → decode [busRead s s.pc] = .ok (i, []) →
    step s = exec i s ∧ stepResult s = execResult i s ∧ i.wf = true

/-- 40_fetch_execute.md R150, 60_exceptions.md R209: a step while Halted changes nothing, makes no access and returns Idle (D6); resume sets
Running from either state and nothing else (D7). -/
def Obligations.HaltedStepIsIdle : Prop :=
  ∀ s : State,
    (s.run = .halted → step s = .next s ∧ stepResult s = .idle ∧ stepAccesses s = []) ∧
    resume s = { s with run := .running }

/-- 40_fetch_execute.md R147, R145, 10_state.md R32, 70_reset_and_hazards.md R252: the three results of a step, each with its state change and
its cycles: on `Ok` the byte at HL is in the register of the decoded load and PC has moved by one, and nothing else differs; otherwise PC
stays and no cycles are reported. The wrap is D9, the failed and idle steps are D5 and D6. -/
def Obligations.StepResultMatchesStateChange : Prop :=
  ∀ s t : State, step s = .next t →
    (stepResult s = .ok s.cfg.cyclesLdRHl ∧ (stepResult s).cycles = s.cfg.cyclesLdRHl ∧ s.run = .running ∧
      isMapped (busRead s s.pc) = true ∧
      (∃ r : Reg8, regOfCode (op8Dst (busRead s s.pc)) = some r ∧ exec (loadOfReg r) s = .next t ∧
        t = { writeReg s (busRead s (get16 s .hl)) r with pc := s.pc + 1#16 }) ∧
      t.run = .running ∧ (s.pc.toNat < 0xFFFF → t.pc.toNat = s.pc.toNat + 1)) ∨
    (stepResult s = .err (.unimplementedOpcode (busRead s s.pc) s.pc) ∧ (stepResult s).cycles = 0 ∧ s.run = .running ∧
      isMapped (busRead s s.pc) = false ∧ t = { s with run := .halted }) ∨
    (stepResult s = .idle ∧ (stepResult s).cycles = 0 ∧ s.run = .halted ∧ t = s)

/-- 40_fetch_execute.md R148, 20_memory.md R82: the bus accesses of a step, in order: the fetch at PC, then for a mapped opcode the read at HL
(the order is D20). -/
def Obligations.StepAccessesInOrder : Prop :=
  ∀ s : State,
    (s.run = .running → isMapped (busRead s s.pc) = true → stepAccesses s = [.read s.pc, .read (get16 s .hl)]) ∧
    (s.run = .running → isMapped (busRead s s.pc) = false → stepAccesses s = [.read s.pc]) ∧
    (s.run = .halted → stepAccesses s = [])

/-- 40_fetch_execute.md R140: the step, built from `exec` and one meaning an instruction, computes what the pseudocode of `Step()` computes
from operation descriptors: the same result and the same state. That pseudocode holds D5, D6 and D9 (log entries 3, 4, 7) and the
descriptor's length field of D25 (log entry 24). -/
def Obligations.StepRefinesPseudocode : Prop :=
  ∀ s : State, ∃ t : State, step s = .next t ∧ descriptorStep s = some (stepResult s, t)

/-- 60_exceptions.md R205, R206: no state makes a step fault or be refused, and the only error a step reports is `UnimplementedOpcode`. -/
def Obligations.StepNeverStops : Prop :=
  ∀ s : State, (∃ t : State, step s = .next t) ∧
    ∀ r : Fault, stepResult s = .err r → r = .unimplementedOpcode (busRead s s.pc) s.pc

/-- 70_reset_and_hazards.md R249, 20_memory.md R92: no hazards. A load uses HL as the load before it left it, and a byte the host writes is the
byte the next step fetches and loads. The invariant gives the stores their canonical form. -/
def Obligations.NoLoadOrFetchHazard : Prop :=
  (∀ (r q : Reg8) (s t u : State), exec (loadOfReg r) s = .next t → exec (loadOfReg q) t = .next u →
    readReg t r = busRead s (get16 s .hl) ∧ readReg u q = busRead s (get16 t .hl)) ∧
  (∀ (s : State) (v : Byte), s.Inv → (busTarget s s.pc).writable = true → fetchInstr (busWrite s s.pc v) = decodeOpcode v) ∧
  (∀ (r : Reg8) (s t : State) (v : Byte), s.Inv → (busTarget s (get16 s .hl)).writable = true →
    exec (loadOfReg r) (busWrite s (get16 s .hl) v) = .next t → readReg t r = v)

/-! ### Encoding -/

/-- Decoding the encoding of any well-formed instruction gives it back and leaves the bytes after it (30_encoding.md R110, R115, R116). -/
def Obligations.DecodeEncodeRoundTrip : Prop :=
  ∀ (i : Instr) (rest : List Byte), i.wf = true → decode (encode i ++ rest) = .ok (i, rest)

/-- Every opcode byte decodes, to a well-formed instruction whose encoding is that byte, and the byte after it plays no part (30_encoding.md
R117, R120). -/
def Obligations.EveryOpcodeByteDecodes : Prop :=
  ∀ (b : Byte) (rest : List Byte), ∃ i : Instr, decode (b :: rest) = .ok (i, rest) ∧ i.wf = true ∧ encode i = [b]

/-- 30_encoding.md R124, R116: exactly one of the fourteen rows of the opcode table matches each byte, it is the row of the decoded
instruction, and the mapped bytes are the seven of R115 (they are D1, that no other is mapped is D3). -/
def Obligations.OpcodeTableRowsPartitionBytes : Prop :=
  (∀ b : Byte, opcodeTable.countP (fun row => row.matches b) = 1 ∧ (decodeOpcode b).row.matches b = true ∧
    (decodeOpcode b).row ∈ opcodeTable) ∧
  (∀ b : Byte, isMapped b = true ↔ b ∈ [0x46#8, 0x4E#8, 0x56#8, 0x5E#8, 0x66#8, 0x6E#8, 0x7E#8])

/-- 30_encoding.md R120, R112: the decode function from the three fields of the byte. The positions of the fields are D1. -/
def Obligations.DecodeAtFollowsFields : Prop :=
  ∀ (s : State) (pc : Word),
    decodeAt s pc =
      if op8Blk (busRead s pc) = 0b01#2 ∧ op8Src (busRead s pc) = 0b110#3 ∧ op8Dst (busRead s pc) ≠ 0b110#3 then
        .op { kind := .load8, dst := .reg (op8Dst (busRead s pc)), src := .indirectHl, cycles := s.cfg.cyclesLdRHl, length := 1 }
      else .unimplementedOpcode (busRead s pc) pc

/-- Words written out from the spec's table (30_encoding.md R115, R116; the bytes are D1): a sanity check of the decoder. -/
def Obligations.OpcodeWordsDecode : Prop :=
  decodeTableWord 8 0b01000110 = some .ldBHl ∧ decodeTableWord 8 0b01001110 = some .ldCHl ∧
  decodeTableWord 8 0b01100110 = some .ldHHl ∧ decodeTableWord 8 0b01101110 = some .ldLHl ∧
  decodeTableWord 8 0b01111110 = some .ldAHl ∧ decodeTableWord 8 0b01110110 = some .unimpl76 ∧
  decodeTableWord 8 0b00000000 = some (.unimplBlk00 0x00#8) ∧ decodeTableWord 8 0b11001011 = some (.unimplBlk11 0xCB#8)

/-! ### The whole machine -/

/-- 10_state.md R42: construction with legal parameters meets the invariant, and so does the reset state. -/
def Obligations.ConstructionMeetsInvariant : Prop :=
  (∀ cfg : Config, cfg.wf = true → (State.construct cfg).Inv) ∧ State.reset.Inv

/-- 10_state.md R42: every step keeps the invariant, from every state that meets it. -/
def Obligations.StepKeepsInvariant : Prop :=
  ∀ s t : State, s.Inv → step s = .next t → t.Inv

/-- 10_state.md R42: every state that any sequence of legal host moves and steps reaches meets the invariant: F's low nibble 0, selectors in
range, stores canonical and inside their sizes. -/
def Obligations.ReachableStatesMeetInvariant : Prop :=
  ∀ s : State, Reachable s → s.Inv

/-- 40_fetch_execute.md R154: every run ends. From a Running state, with any host moves between the steps except resume, the core is Halted
once `((0xFEA0 − PC) mod 2^16) + 1` steps have been taken. The spec's own inference; it rests on D9. -/
def Obligations.EveryRunHalts : Prop :=
  ∀ (x : Session) (s : State) (ms : List HostMove), x.cpu = some s → s.run = .running → ms.all HostMove.keepsHalt = true →
    stepsToHalt s ≤ stepCount ms → ∃ t : State, (x.after ms).cpu = some t ∧ t.run = .halted

/-- 40_fetch_execute.md R154: in every reachable state PC is at most 0xFEA0. The spec's own inference. -/
def Obligations.ReachablePcAtMostUnusable : Prop :=
  ∀ s : State, Reachable s → s.pc.toNat ≤ 0xFEA0

/-- 10_state.md R33, R23, 00_scope.md R4: nothing on an instance ever changes SP; F changes by the host's `set8` of F, `set16` of AF and
`set_flag` only; PC changes by steps only. The spec's own inferences. -/
def Obligations.StackPointerAndFlagsOnlyByHost : Prop :=
  ∀ (x : Session) (s t : State) (m : HostMove), x.cpu = some s → (x.move m).2.cpu = some t → (∀ cfg, m ≠ .construct cfg) →
    t.sp = s.sp ∧
    (t.f ≠ s.f → (∃ v, m = .set8 .fCode v) ∨ (∃ w, m = .set16 .af w) ∨ (∃ flag on, m = .setFlag flag on)) ∧
    (t.pc ≠ s.pc → m = .step)

/-- 70_reset_and_hazards.md R247: stepping the reset machine with no ROM loaded halts at once with `UnimplementedOpcode(0x00, 0x0000)`. The
spec's own inference. -/
def Obligations.BootWithoutRomHalts : Prop :=
  step State.reset = .next { State.reset with run := .halted } ∧
  stepResult State.reset = .err (.unimplementedOpcode 0x00#8 0x0000#16)

/-- 92_eei_decisions.md D12: CGB mode is not observable by a program: whatever it is set to, a step does the same. -/
def Obligations.CgbModeDoesNotReachTheStep : Prop :=
  ∀ (s t : State) (on : Bool), step s = .next t →
    step { s with cfg := { s.cfg with cgbMode := on } } = .next { t with cfg := { t.cfg with cgbMode := on } } ∧
    stepResult { s with cfg := { s.cfg with cgbMode := on } } = stepResult s

/-- 10_state.md R36, 60_exceptions.md R212: the Interrupt Enable register has no effect on a step that makes no bus read of 0xFFFF (D17, D26). -/
def Obligations.InterruptEnableIsInert : Prop :=
  ∀ (s t : State) (v : Byte), BusAccess.read 0xFFFF#16 ∉ stepAccesses s → step s = .next t →
    step { s with ie := v } = .next { t with ie := v } ∧ stepResult { s with ie := v } = stepResult s ∧
    stepAccesses { s with ie := v } = stepAccesses s

/-- 10_state.md R41: a step reads neither F nor SP. -/
def Obligations.StepReadsNeitherFlagsNorStackPointer : Prop :=
  ∀ (s t : State) (f : Byte) (sp : Word), step s = .next t →
    step { s with f := f, sp := sp } = .next { t with f := f, sp := sp } ∧
    stepResult { s with f := f, sp := sp } = stepResult s

/-- The model's own interface (log entry 18): with an opcode byte placed where the next step fetches, that step runs its instruction. -/
def Obligations.PlacedWordIsTheNextInstruction : Prop :=
  ∀ (s : State) (b : Byte), s.Inv →
    (s.withFetchWord 8 b.toNat).run = .running ∧
    step (s.withFetchWord 8 b.toNat) = exec (decodeOpcode b) (s.withFetchWord 8 b.toNat)
end

