-- ==== Sys2Proof/Laws/Memory.lean ====
section
/-! SUPPORT. What the stores' operations do: a read after a write, the canonical form kept by every operation, a store filled from a
buffer, and equality of stores with equal bytes. -/

namespace Sys2Proof.Machine

@[simp] theorem Memory.read_nil (i : Nat) : Memory.read [] i = Memory.unlisted := rfl

theorem Memory.read_cons (j : Nat) (v : Byte) (m : Memory) (i : Nat) :
    Memory.read ((j, v) :: m) i = if i = j then v else Memory.read m i := rfl

/-- A canonical store from `lo` lists nothing below `lo`. -/
theorem Memory.read_below (m : Memory) : ∀ {lo i : Nat}, m.wfFrom lo = true → i < lo → m.read i = Memory.unlisted := by
  induction m with
  | nil => intro _ _ _ _; rfl
  | cons cell m ih =>
    obtain ⟨j, v⟩ := cell
    intro lo i hwf hlt
    simp only [Memory.wfFrom, Bool.and_eq_true, decide_eq_true_eq] at hwf
    rw [Memory.read_cons, if_neg (by omega)]
    exact ih hwf.2 (by omega)

/-- Canonical from a bound is canonical from every lower one. -/
theorem Memory.wfFrom_mono {m : Memory} {lo lo' : Nat} (h : m.wfFrom lo' = true) (hle : lo ≤ lo') :
    m.wfFrom lo = true := by
  cases m with
  | nil => rfl
  | cons cell m =>
    simp only [Memory.wfFrom, Bool.and_eq_true, decide_eq_true_eq] at h ⊢
    exact ⟨⟨by omega, h.1.2⟩, h.2⟩

theorem Memory.read_consCell_same {i : Nat} {v : Byte} {m : Memory} (h : m.read i = Memory.unlisted) :
    (Memory.consCell i v m).read i = v := by
  unfold Memory.consCell
  split
  · rw [h]; exact Eq.symm ‹_›
  · simp [Memory.read_cons]

theorem Memory.read_consCell_ne {i k : Nat} (v : Byte) (m : Memory) (h : k ≠ i) :
    (Memory.consCell i v m).read k = m.read k := by
  unfold Memory.consCell
  split
  · rfl
  · simp [Memory.read_cons, h]

theorem Memory.wfFrom_consCell {lo i : Nat} (v : Byte) {m : Memory} (hlo : lo ≤ i) (h : m.wfFrom (i + 1) = true) :
    (Memory.consCell i v m).wfFrom lo = true := by
  unfold Memory.consCell
  split
  · exact Memory.wfFrom_mono h (by omega)
  · rename_i hv
    simp [Memory.wfFrom, hlo, h, hv]

/-- Reading back the byte just written, in a canonical store. -/
theorem Memory.read_write_same_from (m : Memory) (i : Nat) (v : Byte) :
    ∀ {lo : Nat}, m.wfFrom lo = true → (m.write i v).read i = v := by
  induction m with
  | nil => intro _ _; exact Memory.read_consCell_same rfl
  | cons cell m ih =>
    obtain ⟨j, w⟩ := cell
    intro lo hwf
    have h := hwf
    simp only [Memory.wfFrom, Bool.and_eq_true, decide_eq_true_eq] at h
    unfold Memory.write
    split
    · rename_i hlt
      refine Memory.read_consCell_same ?_
      rw [Memory.read_cons, if_neg (by omega)]
      exact Memory.read_below m h.2 (by omega)
    · split
      · rename_i heq
        exact Memory.read_consCell_same (Memory.read_below m h.2 (by omega))
      · rename_i hne
        rw [Memory.read_cons, if_neg hne]
        exact ih h.2

theorem Memory.read_write_same {m : Memory} (h : m.wf = true) (i : Nat) (v : Byte) : (m.write i v).read i = v :=
  Memory.read_write_same_from m i v h

/-- A write leaves every other index alone. -/
theorem Memory.read_write_ne (m : Memory) {i k : Nat} (v : Byte) (h : k ≠ i) : (m.write i v).read k = m.read k := by
  induction m with
  | nil => exact Memory.read_consCell_ne v [] h
  | cons cell m ih =>
    obtain ⟨j, w⟩ := cell
    unfold Memory.write
    split
    · exact Memory.read_consCell_ne v _ h
    · split
      · rename_i heq
        rw [Memory.read_consCell_ne v m h, Memory.read_cons, if_neg (by omega)]
      · rw [Memory.read_cons, Memory.read_cons, ih]

theorem Memory.wfFrom_write (m : Memory) (i : Nat) (v : Byte) :
    ∀ {lo : Nat}, lo ≤ i → m.wfFrom lo = true → (m.write i v).wfFrom lo = true := by
  induction m with
  | nil => intro lo hlo _; exact Memory.wfFrom_consCell v hlo rfl
  | cons cell m ih =>
    obtain ⟨j, w⟩ := cell
    intro lo hlo hwf
    have h := hwf
    simp only [Memory.wfFrom, Bool.and_eq_true, decide_eq_true_eq] at h
    unfold Memory.write
    split
    · refine Memory.wfFrom_consCell v hlo ?_
      simp only [Memory.wfFrom, Bool.and_eq_true, decide_eq_true_eq]
      exact ⟨⟨by omega, h.1.2⟩, h.2⟩
    · split
      · rename_i heq
        exact Memory.wfFrom_consCell v hlo (heq ▸ h.2)
      · simp only [Memory.wfFrom, Bool.and_eq_true, decide_eq_true_eq]
        exact ⟨h.1, ih (by omega) h.2⟩

/-- A write keeps the canonical form. -/
theorem Memory.wf_write {m : Memory} (h : m.wf = true) (i : Nat) (v : Byte) : (m.write i v).wf = true :=
  Memory.wfFrom_write m i v (Nat.zero_le i) h

@[simp] theorem Memory.within_nil (size : Nat) : Memory.within size [] = true := rfl

@[simp] theorem Memory.within_cons (size j : Nat) (v : Byte) (m : Memory) :
    Memory.within size ((j, v) :: m) = (decide (j < size) && m.within size) := rfl

theorem Memory.within_consCell {size i : Nat} (v : Byte) {m : Memory} (hi : i < size) (h : m.within size = true) :
    (Memory.consCell i v m).within size = true := by
  unfold Memory.consCell
  split
  · exact h
  · simp [hi, h]

/-- A write inside a store keeps its entries inside it. -/
theorem Memory.within_write (m : Memory) {size i : Nat} (v : Byte) (hi : i < size) (h : m.within size = true) :
    (m.write i v).within size = true := by
  induction m with
  | nil => exact Memory.within_consCell v hi rfl
  | cons cell m ih =>
    obtain ⟨j, w⟩ := cell
    have hm : Memory.within size m = true := by
      rw [Memory.within_cons, Bool.and_eq_true] at h; exact h.2
    unfold Memory.write
    split
    · exact Memory.within_consCell v hi h
    · split
      · exact Memory.within_consCell v hi hm
      · rw [Memory.within_cons, Bool.and_eq_true] at h ⊢
        exact ⟨h.1, ih hm⟩

theorem Memory.wfFrom_ofBytesFrom (bytes : List Byte) : ∀ i : Nat, (Memory.ofBytesFrom i bytes).wfFrom i = true := by
  induction bytes with
  | nil => intro _; rfl
  | cons v vs ih => intro i; exact Memory.wfFrom_consCell v (Nat.le_refl i) (ih (i + 1))

/-- A store filled from a buffer is canonical. -/
theorem Memory.wf_ofBytesFrom (i : Nat) (bytes : List Byte) : (Memory.ofBytesFrom i bytes).wf = true :=
  Memory.wfFrom_mono (Memory.wfFrom_ofBytesFrom bytes i) (Nat.zero_le i)

theorem Memory.within_ofBytesFrom (bytes : List Byte) :
    ∀ {i size : Nat}, i + bytes.length ≤ size → (Memory.ofBytesFrom i bytes).within size = true := by
  induction bytes with
  | nil => intro _ _ _; rfl
  | cons v vs ih =>
    intro i size h
    rw [List.length_cons] at h
    exact Memory.within_consCell v (by omega) (ih (by omega))

/-- Two canonical stores with equal bytes are equal data. -/
theorem Memory.ext_wfFrom (m : Memory) : ∀ {lo : Nat} {m' : Memory}, m.wfFrom lo = true → m'.wfFrom lo = true →
    (∀ i, m.read i = m'.read i) → m = m' := by
  induction m with
  | nil =>
    intro lo m' _ hm' hread
    cases m' with
    | nil => rfl
    | cons cell' m' =>
      obtain ⟨j', v'⟩ := cell'
      simp only [Memory.wfFrom, Bool.and_eq_true, decide_eq_true_eq] at hm'
      have hj := hread j'
      rw [Memory.read_cons, if_pos rfl] at hj
      exact absurd hj.symm hm'.1.2
  | cons cell m ih =>
    obtain ⟨j, v⟩ := cell
    intro lo m' hm hm' hread
    have h := hm
    simp only [Memory.wfFrom, Bool.and_eq_true, decide_eq_true_eq] at h
    cases m' with
    | nil =>
      have hj := hread j
      rw [Memory.read_cons, if_pos rfl] at hj
      exact absurd hj h.1.2
    | cons cell' m' =>
      obtain ⟨j', v'⟩ := cell'
      have h' := hm'
      simp only [Memory.wfFrom, Bool.and_eq_true, decide_eq_true_eq] at h'
      have hjj : j = j' := by
        rcases Nat.lt_trichotomy j j' with hlt | heq | hgt
        · have hj := hread j
          rw [Memory.read_cons, if_pos rfl, Memory.read_cons, if_neg (by omega),
            Memory.read_below m' h'.2 (by omega)] at hj
          exact absurd hj h.1.2
        · exact heq
        · have hj := hread j'
          rw [Memory.read_cons, if_neg (by omega), Memory.read_below m h.2 (by omega), Memory.read_cons,
            if_pos rfl] at hj
          exact absurd hj.symm h'.1.2
      subst hjj
      have hv := hread j
      rw [Memory.read_cons, if_pos rfl, Memory.read_cons, if_pos rfl] at hv
      subst hv
      have hrest : m = m' := by
        refine ih h.2 h'.2 (fun i => ?_)
        by_cases hi : i = j
        · rw [hi, Memory.read_below m h.2 (by omega), Memory.read_below m' h'.2 (by omega)]
        · have hr := hread i
          rwa [Memory.read_cons, if_neg hi, Memory.read_cons, if_neg hi] at hr
      rw [hrest]

theorem Memory.ext_wf {m m' : Memory} (h : m.wf = true) (h' : m'.wf = true) (hread : ∀ i, m.read i = m'.read i) :
    m = m' := Memory.ext_wfFrom m h h' hread

end Sys2Proof.Machine
end

