-- ==== Sys2Proof/Laws/State.lean ====
section
/-! SUPPORT. What each named update of the state leaves in each field, so that no later proof unfolds a record update. -/

namespace Sys2Proof.Machine

/-! ### `advancePc` -/

@[simp] theorem advancePc_a (n : Nat) (s : State) : (advancePc n s).a = s.a := rfl
@[simp] theorem advancePc_f (n : Nat) (s : State) : (advancePc n s).f = s.f := rfl
@[simp] theorem advancePc_b (n : Nat) (s : State) : (advancePc n s).b = s.b := rfl
@[simp] theorem advancePc_c (n : Nat) (s : State) : (advancePc n s).c = s.c := rfl
@[simp] theorem advancePc_d (n : Nat) (s : State) : (advancePc n s).d = s.d := rfl
@[simp] theorem advancePc_e (n : Nat) (s : State) : (advancePc n s).e = s.e := rfl
@[simp] theorem advancePc_h (n : Nat) (s : State) : (advancePc n s).h = s.h := rfl
@[simp] theorem advancePc_l (n : Nat) (s : State) : (advancePc n s).l = s.l := rfl
@[simp] theorem advancePc_pc (n : Nat) (s : State) : (advancePc n s).pc = s.pc + BitVec.ofNat 16 n := rfl
@[simp] theorem advancePc_sp (n : Nat) (s : State) : (advancePc n s).sp = s.sp := rfl
@[simp] theorem advancePc_run (n : Nat) (s : State) : (advancePc n s).run = s.run := rfl
@[simp] theorem advancePc_romBank (n : Nat) (s : State) : (advancePc n s).romBank = s.romBank := rfl
@[simp] theorem advancePc_vramBank (n : Nat) (s : State) : (advancePc n s).vramBank = s.vramBank := rfl
@[simp] theorem advancePc_wramBank (n : Nat) (s : State) : (advancePc n s).wramBank = s.wramBank := rfl
@[simp] theorem advancePc_rom (n : Nat) (s : State) : (advancePc n s).rom = s.rom := rfl
@[simp] theorem advancePc_vram (n : Nat) (s : State) : (advancePc n s).vram = s.vram := rfl
@[simp] theorem advancePc_extram (n : Nat) (s : State) : (advancePc n s).extram = s.extram := rfl
@[simp] theorem advancePc_wram (n : Nat) (s : State) : (advancePc n s).wram = s.wram := rfl
@[simp] theorem advancePc_oam (n : Nat) (s : State) : (advancePc n s).oam = s.oam := rfl
@[simp] theorem advancePc_hram (n : Nat) (s : State) : (advancePc n s).hram = s.hram := rfl
@[simp] theorem advancePc_ie (n : Nat) (s : State) : (advancePc n s).ie = s.ie := rfl
@[simp] theorem advancePc_cfg (n : Nat) (s : State) : (advancePc n s).cfg = s.cfg := rfl
@[simp] theorem advancePc_ioState (n : Nat) (s : State) : (advancePc n s).ioState = s.ioState := rfl

/-! ### `enterHalted` -/

@[simp] theorem enterHalted_a (s : State) : (enterHalted s).a = s.a := rfl
@[simp] theorem enterHalted_f (s : State) : (enterHalted s).f = s.f := rfl
@[simp] theorem enterHalted_b (s : State) : (enterHalted s).b = s.b := rfl
@[simp] theorem enterHalted_c (s : State) : (enterHalted s).c = s.c := rfl
@[simp] theorem enterHalted_d (s : State) : (enterHalted s).d = s.d := rfl
@[simp] theorem enterHalted_e (s : State) : (enterHalted s).e = s.e := rfl
@[simp] theorem enterHalted_h (s : State) : (enterHalted s).h = s.h := rfl
@[simp] theorem enterHalted_l (s : State) : (enterHalted s).l = s.l := rfl
@[simp] theorem enterHalted_pc (s : State) : (enterHalted s).pc = s.pc := rfl
@[simp] theorem enterHalted_sp (s : State) : (enterHalted s).sp = s.sp := rfl
@[simp] theorem enterHalted_run (s : State) : (enterHalted s).run = .halted := rfl
@[simp] theorem enterHalted_romBank (s : State) : (enterHalted s).romBank = s.romBank := rfl
@[simp] theorem enterHalted_vramBank (s : State) : (enterHalted s).vramBank = s.vramBank := rfl
@[simp] theorem enterHalted_wramBank (s : State) : (enterHalted s).wramBank = s.wramBank := rfl
@[simp] theorem enterHalted_rom (s : State) : (enterHalted s).rom = s.rom := rfl
@[simp] theorem enterHalted_vram (s : State) : (enterHalted s).vram = s.vram := rfl
@[simp] theorem enterHalted_extram (s : State) : (enterHalted s).extram = s.extram := rfl
@[simp] theorem enterHalted_wram (s : State) : (enterHalted s).wram = s.wram := rfl
@[simp] theorem enterHalted_oam (s : State) : (enterHalted s).oam = s.oam := rfl
@[simp] theorem enterHalted_hram (s : State) : (enterHalted s).hram = s.hram := rfl
@[simp] theorem enterHalted_ie (s : State) : (enterHalted s).ie = s.ie := rfl
@[simp] theorem enterHalted_cfg (s : State) : (enterHalted s).cfg = s.cfg := rfl
@[simp] theorem enterHalted_ioState (s : State) : (enterHalted s).ioState = s.ioState := rfl

/-! ### `resume` -/

@[simp] theorem resume_a (s : State) : (resume s).a = s.a := rfl
@[simp] theorem resume_f (s : State) : (resume s).f = s.f := rfl
@[simp] theorem resume_b (s : State) : (resume s).b = s.b := rfl
@[simp] theorem resume_c (s : State) : (resume s).c = s.c := rfl
@[simp] theorem resume_d (s : State) : (resume s).d = s.d := rfl
@[simp] theorem resume_e (s : State) : (resume s).e = s.e := rfl
@[simp] theorem resume_h (s : State) : (resume s).h = s.h := rfl
@[simp] theorem resume_l (s : State) : (resume s).l = s.l := rfl
@[simp] theorem resume_pc (s : State) : (resume s).pc = s.pc := rfl
@[simp] theorem resume_sp (s : State) : (resume s).sp = s.sp := rfl
@[simp] theorem resume_run (s : State) : (resume s).run = .running := rfl
@[simp] theorem resume_romBank (s : State) : (resume s).romBank = s.romBank := rfl
@[simp] theorem resume_vramBank (s : State) : (resume s).vramBank = s.vramBank := rfl
@[simp] theorem resume_wramBank (s : State) : (resume s).wramBank = s.wramBank := rfl
@[simp] theorem resume_rom (s : State) : (resume s).rom = s.rom := rfl
@[simp] theorem resume_vram (s : State) : (resume s).vram = s.vram := rfl
@[simp] theorem resume_extram (s : State) : (resume s).extram = s.extram := rfl
@[simp] theorem resume_wram (s : State) : (resume s).wram = s.wram := rfl
@[simp] theorem resume_oam (s : State) : (resume s).oam = s.oam := rfl
@[simp] theorem resume_hram (s : State) : (resume s).hram = s.hram := rfl
@[simp] theorem resume_ie (s : State) : (resume s).ie = s.ie := rfl
@[simp] theorem resume_cfg (s : State) : (resume s).cfg = s.cfg := rfl
@[simp] theorem resume_ioState (s : State) : (resume s).ioState = s.ioState := rfl

/-! ### `writeF` -/

@[simp] theorem writeF_a (s : State) (v : Byte) : (writeF s v).a = s.a := rfl
@[simp] theorem writeF_f (s : State) (v : Byte) : (writeF s v).f = maskF v := rfl
@[simp] theorem writeF_b (s : State) (v : Byte) : (writeF s v).b = s.b := rfl
@[simp] theorem writeF_c (s : State) (v : Byte) : (writeF s v).c = s.c := rfl
@[simp] theorem writeF_d (s : State) (v : Byte) : (writeF s v).d = s.d := rfl
@[simp] theorem writeF_e (s : State) (v : Byte) : (writeF s v).e = s.e := rfl
@[simp] theorem writeF_h (s : State) (v : Byte) : (writeF s v).h = s.h := rfl
@[simp] theorem writeF_l (s : State) (v : Byte) : (writeF s v).l = s.l := rfl
@[simp] theorem writeF_pc (s : State) (v : Byte) : (writeF s v).pc = s.pc := rfl
@[simp] theorem writeF_sp (s : State) (v : Byte) : (writeF s v).sp = s.sp := rfl
@[simp] theorem writeF_run (s : State) (v : Byte) : (writeF s v).run = s.run := rfl
@[simp] theorem writeF_romBank (s : State) (v : Byte) : (writeF s v).romBank = s.romBank := rfl
@[simp] theorem writeF_vramBank (s : State) (v : Byte) : (writeF s v).vramBank = s.vramBank := rfl
@[simp] theorem writeF_wramBank (s : State) (v : Byte) : (writeF s v).wramBank = s.wramBank := rfl
@[simp] theorem writeF_rom (s : State) (v : Byte) : (writeF s v).rom = s.rom := rfl
@[simp] theorem writeF_vram (s : State) (v : Byte) : (writeF s v).vram = s.vram := rfl
@[simp] theorem writeF_extram (s : State) (v : Byte) : (writeF s v).extram = s.extram := rfl
@[simp] theorem writeF_wram (s : State) (v : Byte) : (writeF s v).wram = s.wram := rfl
@[simp] theorem writeF_oam (s : State) (v : Byte) : (writeF s v).oam = s.oam := rfl
@[simp] theorem writeF_hram (s : State) (v : Byte) : (writeF s v).hram = s.hram := rfl
@[simp] theorem writeF_ie (s : State) (v : Byte) : (writeF s v).ie = s.ie := rfl
@[simp] theorem writeF_cfg (s : State) (v : Byte) : (writeF s v).cfg = s.cfg := rfl
@[simp] theorem writeF_ioState (s : State) (v : Byte) : (writeF s v).ioState = s.ioState := rfl

/-! ### `setFlag` -/

@[simp] theorem setFlag_a (s : State) (flag : Flag) (on : Bool) : (setFlag s flag on).a = s.a := rfl
@[simp] theorem setFlag_f (s : State) (flag : Flag) (on : Bool) : (setFlag s flag on).f = (s.f &&& ~~~ flagMask flag) ||| (if on then flagMask flag else 0#8) := rfl
@[simp] theorem setFlag_b (s : State) (flag : Flag) (on : Bool) : (setFlag s flag on).b = s.b := rfl
@[simp] theorem setFlag_c (s : State) (flag : Flag) (on : Bool) : (setFlag s flag on).c = s.c := rfl
@[simp] theorem setFlag_d (s : State) (flag : Flag) (on : Bool) : (setFlag s flag on).d = s.d := rfl
@[simp] theorem setFlag_e (s : State) (flag : Flag) (on : Bool) : (setFlag s flag on).e = s.e := rfl
@[simp] theorem setFlag_h (s : State) (flag : Flag) (on : Bool) : (setFlag s flag on).h = s.h := rfl
@[simp] theorem setFlag_l (s : State) (flag : Flag) (on : Bool) : (setFlag s flag on).l = s.l := rfl
@[simp] theorem setFlag_pc (s : State) (flag : Flag) (on : Bool) : (setFlag s flag on).pc = s.pc := rfl
@[simp] theorem setFlag_sp (s : State) (flag : Flag) (on : Bool) : (setFlag s flag on).sp = s.sp := rfl
@[simp] theorem setFlag_run (s : State) (flag : Flag) (on : Bool) : (setFlag s flag on).run = s.run := rfl
@[simp] theorem setFlag_romBank (s : State) (flag : Flag) (on : Bool) : (setFlag s flag on).romBank = s.romBank := rfl
@[simp] theorem setFlag_vramBank (s : State) (flag : Flag) (on : Bool) : (setFlag s flag on).vramBank = s.vramBank := rfl
@[simp] theorem setFlag_wramBank (s : State) (flag : Flag) (on : Bool) : (setFlag s flag on).wramBank = s.wramBank := rfl
@[simp] theorem setFlag_rom (s : State) (flag : Flag) (on : Bool) : (setFlag s flag on).rom = s.rom := rfl
@[simp] theorem setFlag_vram (s : State) (flag : Flag) (on : Bool) : (setFlag s flag on).vram = s.vram := rfl
@[simp] theorem setFlag_extram (s : State) (flag : Flag) (on : Bool) : (setFlag s flag on).extram = s.extram := rfl
@[simp] theorem setFlag_wram (s : State) (flag : Flag) (on : Bool) : (setFlag s flag on).wram = s.wram := rfl
@[simp] theorem setFlag_oam (s : State) (flag : Flag) (on : Bool) : (setFlag s flag on).oam = s.oam := rfl
@[simp] theorem setFlag_hram (s : State) (flag : Flag) (on : Bool) : (setFlag s flag on).hram = s.hram := rfl
@[simp] theorem setFlag_ie (s : State) (flag : Flag) (on : Bool) : (setFlag s flag on).ie = s.ie := rfl
@[simp] theorem setFlag_cfg (s : State) (flag : Flag) (on : Bool) : (setFlag s flag on).cfg = s.cfg := rfl
@[simp] theorem setFlag_ioState (s : State) (flag : Flag) (on : Bool) : (setFlag s flag on).ioState = s.ioState := rfl

/-! ### `writeReg` -/

@[simp] theorem writeReg_f (s : State) (v : Byte) (r : Reg8) : (writeReg s v r).f = s.f := by cases r <;> rfl
@[simp] theorem writeReg_pc (s : State) (v : Byte) (r : Reg8) : (writeReg s v r).pc = s.pc := by cases r <;> rfl
@[simp] theorem writeReg_sp (s : State) (v : Byte) (r : Reg8) : (writeReg s v r).sp = s.sp := by cases r <;> rfl
@[simp] theorem writeReg_run (s : State) (v : Byte) (r : Reg8) : (writeReg s v r).run = s.run := by cases r <;> rfl
@[simp] theorem writeReg_romBank (s : State) (v : Byte) (r : Reg8) : (writeReg s v r).romBank = s.romBank := by cases r <;> rfl
@[simp] theorem writeReg_vramBank (s : State) (v : Byte) (r : Reg8) : (writeReg s v r).vramBank = s.vramBank := by cases r <;> rfl
@[simp] theorem writeReg_wramBank (s : State) (v : Byte) (r : Reg8) : (writeReg s v r).wramBank = s.wramBank := by cases r <;> rfl
@[simp] theorem writeReg_rom (s : State) (v : Byte) (r : Reg8) : (writeReg s v r).rom = s.rom := by cases r <;> rfl
@[simp] theorem writeReg_vram (s : State) (v : Byte) (r : Reg8) : (writeReg s v r).vram = s.vram := by cases r <;> rfl
@[simp] theorem writeReg_extram (s : State) (v : Byte) (r : Reg8) : (writeReg s v r).extram = s.extram := by cases r <;> rfl
@[simp] theorem writeReg_wram (s : State) (v : Byte) (r : Reg8) : (writeReg s v r).wram = s.wram := by cases r <;> rfl
@[simp] theorem writeReg_oam (s : State) (v : Byte) (r : Reg8) : (writeReg s v r).oam = s.oam := by cases r <;> rfl
@[simp] theorem writeReg_hram (s : State) (v : Byte) (r : Reg8) : (writeReg s v r).hram = s.hram := by cases r <;> rfl
@[simp] theorem writeReg_ie (s : State) (v : Byte) (r : Reg8) : (writeReg s v r).ie = s.ie := by cases r <;> rfl
@[simp] theorem writeReg_cfg (s : State) (v : Byte) (r : Reg8) : (writeReg s v r).cfg = s.cfg := by cases r <;> rfl
@[simp] theorem writeReg_ioState (s : State) (v : Byte) (r : Reg8) : (writeReg s v r).ioState = s.ioState := by cases r <;> rfl

@[simp] theorem readReg_writeReg_same (s : State) (v : Byte) (r : Reg8) : readReg (writeReg s v r) r = v := by
  cases r <;> rfl

theorem readReg_writeReg_ne (s : State) (v : Byte) {r q : Reg8} (h : q ≠ r) : readReg (writeReg s v r) q = readReg s q := by
  cases r <;> cases q <;> first | rfl | exact absurd rfl h

/-! ### `set16` -/

@[simp] theorem set16_pc (s : State) (w : Word) (p : Pair) : (set16 s w p).pc = s.pc := by cases p <;> rfl
@[simp] theorem set16_sp (s : State) (w : Word) (p : Pair) : (set16 s w p).sp = s.sp := by cases p <;> rfl
@[simp] theorem set16_run (s : State) (w : Word) (p : Pair) : (set16 s w p).run = s.run := by cases p <;> rfl
@[simp] theorem set16_romBank (s : State) (w : Word) (p : Pair) : (set16 s w p).romBank = s.romBank := by cases p <;> rfl
@[simp] theorem set16_vramBank (s : State) (w : Word) (p : Pair) : (set16 s w p).vramBank = s.vramBank := by cases p <;> rfl
@[simp] theorem set16_wramBank (s : State) (w : Word) (p : Pair) : (set16 s w p).wramBank = s.wramBank := by cases p <;> rfl
@[simp] theorem set16_rom (s : State) (w : Word) (p : Pair) : (set16 s w p).rom = s.rom := by cases p <;> rfl
@[simp] theorem set16_vram (s : State) (w : Word) (p : Pair) : (set16 s w p).vram = s.vram := by cases p <;> rfl
@[simp] theorem set16_extram (s : State) (w : Word) (p : Pair) : (set16 s w p).extram = s.extram := by cases p <;> rfl
@[simp] theorem set16_wram (s : State) (w : Word) (p : Pair) : (set16 s w p).wram = s.wram := by cases p <;> rfl
@[simp] theorem set16_oam (s : State) (w : Word) (p : Pair) : (set16 s w p).oam = s.oam := by cases p <;> rfl
@[simp] theorem set16_hram (s : State) (w : Word) (p : Pair) : (set16 s w p).hram = s.hram := by cases p <;> rfl
@[simp] theorem set16_ie (s : State) (w : Word) (p : Pair) : (set16 s w p).ie = s.ie := by cases p <;> rfl
@[simp] theorem set16_cfg (s : State) (w : Word) (p : Pair) : (set16 s w p).cfg = s.cfg := by cases p <;> rfl
@[simp] theorem set16_ioState (s : State) (w : Word) (p : Pair) : (set16 s w p).ioState = s.ioState := by cases p <;> rfl

/-! ### Pair composition (10_state.md R24, R28) -/

/-- Bit `i` of a composed pair: the low byte below bit 8, the high byte from bit 8 on. -/
theorem getLsbD_pairWord (hi lo : Byte) {i : Nat} (h : i < 16) :
    (pairWord hi lo).getLsbD i = if i < 8 then lo.getLsbD i else hi.getLsbD (i - 8) := by
  unfold pairWord
  by_cases h8 : i < 8
  · simp [h8, h]
  · have hlo : lo.getLsbD i = false := BitVec.getLsbD_of_ge lo i (by omega)
    simp [h8, h, hlo]

@[simp] theorem hiByte_pairWord (hi lo : Byte) : hiByte (pairWord hi lo) = hi := by
  apply BitVec.eq_of_getLsbD_eq
  intro i h
  rw [hiByte, BitVec.getLsbD_extractLsb', getLsbD_pairWord hi lo (by omega), if_neg (by omega)]
  simp [h]

@[simp] theorem loByte_pairWord (hi lo : Byte) : loByte (pairWord hi lo) = lo := by
  apply BitVec.eq_of_getLsbD_eq
  intro i h
  rw [loByte, BitVec.getLsbD_extractLsb', getLsbD_pairWord hi lo (by omega), if_pos (by omega)]
  simp [h]

/-! ### `writeTarget` -/

@[simp] theorem writeTarget_a (s : State) (v : Byte) (t : Target) : (writeTarget s v t).a = s.a := by cases t <;> rfl
@[simp] theorem writeTarget_f (s : State) (v : Byte) (t : Target) : (writeTarget s v t).f = s.f := by cases t <;> rfl
@[simp] theorem writeTarget_b (s : State) (v : Byte) (t : Target) : (writeTarget s v t).b = s.b := by cases t <;> rfl
@[simp] theorem writeTarget_c (s : State) (v : Byte) (t : Target) : (writeTarget s v t).c = s.c := by cases t <;> rfl
@[simp] theorem writeTarget_d (s : State) (v : Byte) (t : Target) : (writeTarget s v t).d = s.d := by cases t <;> rfl
@[simp] theorem writeTarget_e (s : State) (v : Byte) (t : Target) : (writeTarget s v t).e = s.e := by cases t <;> rfl
@[simp] theorem writeTarget_h (s : State) (v : Byte) (t : Target) : (writeTarget s v t).h = s.h := by cases t <;> rfl
@[simp] theorem writeTarget_l (s : State) (v : Byte) (t : Target) : (writeTarget s v t).l = s.l := by cases t <;> rfl
@[simp] theorem writeTarget_pc (s : State) (v : Byte) (t : Target) : (writeTarget s v t).pc = s.pc := by cases t <;> rfl
@[simp] theorem writeTarget_sp (s : State) (v : Byte) (t : Target) : (writeTarget s v t).sp = s.sp := by cases t <;> rfl
@[simp] theorem writeTarget_run (s : State) (v : Byte) (t : Target) : (writeTarget s v t).run = s.run := by cases t <;> rfl
@[simp] theorem writeTarget_romBank (s : State) (v : Byte) (t : Target) : (writeTarget s v t).romBank = s.romBank := by cases t <;> rfl
@[simp] theorem writeTarget_vramBank (s : State) (v : Byte) (t : Target) : (writeTarget s v t).vramBank = s.vramBank := by cases t <;> rfl
@[simp] theorem writeTarget_wramBank (s : State) (v : Byte) (t : Target) : (writeTarget s v t).wramBank = s.wramBank := by cases t <;> rfl
@[simp] theorem writeTarget_rom (s : State) (v : Byte) (t : Target) : (writeTarget s v t).rom = s.rom := by cases t <;> rfl
@[simp] theorem writeTarget_cfg (s : State) (v : Byte) (t : Target) : (writeTarget s v t).cfg = s.cfg := by cases t <;> rfl

/-! ### `busWrite` -/

@[simp] theorem busWrite_a (s : State) (addr : Word) (v : Byte) : (busWrite s addr v).a = s.a := by simp [busWrite]
@[simp] theorem busWrite_f (s : State) (addr : Word) (v : Byte) : (busWrite s addr v).f = s.f := by simp [busWrite]
@[simp] theorem busWrite_b (s : State) (addr : Word) (v : Byte) : (busWrite s addr v).b = s.b := by simp [busWrite]
@[simp] theorem busWrite_c (s : State) (addr : Word) (v : Byte) : (busWrite s addr v).c = s.c := by simp [busWrite]
@[simp] theorem busWrite_d (s : State) (addr : Word) (v : Byte) : (busWrite s addr v).d = s.d := by simp [busWrite]
@[simp] theorem busWrite_e (s : State) (addr : Word) (v : Byte) : (busWrite s addr v).e = s.e := by simp [busWrite]
@[simp] theorem busWrite_h (s : State) (addr : Word) (v : Byte) : (busWrite s addr v).h = s.h := by simp [busWrite]
@[simp] theorem busWrite_l (s : State) (addr : Word) (v : Byte) : (busWrite s addr v).l = s.l := by simp [busWrite]
@[simp] theorem busWrite_pc (s : State) (addr : Word) (v : Byte) : (busWrite s addr v).pc = s.pc := by simp [busWrite]
@[simp] theorem busWrite_sp (s : State) (addr : Word) (v : Byte) : (busWrite s addr v).sp = s.sp := by simp [busWrite]
@[simp] theorem busWrite_run (s : State) (addr : Word) (v : Byte) : (busWrite s addr v).run = s.run := by simp [busWrite]
@[simp] theorem busWrite_romBank (s : State) (addr : Word) (v : Byte) : (busWrite s addr v).romBank = s.romBank := by simp [busWrite]
@[simp] theorem busWrite_vramBank (s : State) (addr : Word) (v : Byte) : (busWrite s addr v).vramBank = s.vramBank := by simp [busWrite]
@[simp] theorem busWrite_wramBank (s : State) (addr : Word) (v : Byte) : (busWrite s addr v).wramBank = s.wramBank := by simp [busWrite]
@[simp] theorem busWrite_rom (s : State) (addr : Word) (v : Byte) : (busWrite s addr v).rom = s.rom := by simp [busWrite]
@[simp] theorem busWrite_cfg (s : State) (addr : Word) (v : Byte) : (busWrite s addr v).cfg = s.cfg := by simp [busWrite]

end Sys2Proof.Machine
end

