-- ==== Sys2Proof/Laws/Bus.lean ====
section
/-! SUPPORT. The decode of an address, the redirect of the echo, and reading and writing one target of the bus. -/

namespace Sys2Proof.Machine

/-- An address number is decoded to the echo exactly in E000–FDFF (20_memory.md R63). -/
theorem decodeNat_fst_echo (n : Nat) : (decodeNat n).1 = .echo ↔ 0xE000 ≤ n ∧ n ≤ 0xFDFF := by
  unfold decodeNat
  constructor
  · intro h
    repeat' split at h
    all_goals first | exact Region.noConfusion h | omega
  · rintro ⟨h1, h2⟩
    repeat rw [if_neg (by omega)]
    rw [if_pos h2]

/-- A redirected address is never in the echo (20_memory.md R72). -/
theorem redirect_not_echo (addr : Word) : (decodeAddress (redirect addr)).1 ≠ .echo := by
  unfold redirect
  split
  · rename_i h
    rw [decodeAddress, decodeNat_fst_echo] at h
    rw [decodeAddress, Ne, decodeNat_fst_echo, BitVec.toNat_sub_of_le (by simp [BitVec.le_def]; omega)]
    simp
    omega
  · assumption

/-- What stands behind an address depends on the selectors and the configuration only, so a write to the bus never moves it. -/
theorem busTarget_congr {s t : State} (hr : t.romBank = s.romBank) (hv : t.vramBank = s.vramBank)
    (hw : t.wramBank = s.wramBank) (hc : t.cfg = s.cfg) (addr : Word) : busTarget t addr = busTarget s addr := by
  unfold busTarget regionTarget
  rw [hr, hv, hw, hc]

@[simp] theorem busTarget_writeTarget (s : State) (v : Byte) (x : Target) (addr : Word) :
    busTarget (writeTarget s v x) addr = busTarget s addr :=
  busTarget_congr (by simp) (by simp) (by simp) (by simp) addr

@[simp] theorem busTarget_busWrite (s : State) (addr addr' : Word) (v : Byte) :
    busTarget (busWrite s addr v) addr' = busTarget s addr' := busTarget_writeTarget s v _ addr'

/-- A write in the I/O window that the hook declines changes nothing (20_memory.md R75). -/
theorem ioWritten_declined {s : State} {offset : Nat} {v : Byte} (h : ioWriteAnswer s offset v = none) :
    ioWritten s offset v = s := by
  unfold ioWritten
  rw [h]
  rfl

/-- A write in the I/O window that the hook takes moves the peripheral and nothing else (R75). -/
theorem ioWritten_taken {s : State} {offset next : Nat} {v : Byte} (h : ioWriteAnswer s offset v = some next) :
    ioWritten s offset v = { s with ioState := next } := by
  unfold ioWritten
  rw [h]
  rfl

/-- The hook takes no write outside the I/O window. -/
theorem ioTakes_of_not_io (s : State) (v : Byte) {x : Target} (h : x.isIo = false) : ioTakes s v x = false := by
  cases x <;> first | rfl | exact absurd h (by simp [Target.isIo])

/-- A write to a target that neither keeps it nor hands it to a hook changes nothing. -/
theorem writeTarget_discarded (s : State) (v : Byte) {x : Target} (h : x.writable = false) (hk : ioTakes s v x = false) :
    writeTarget s v x = s := by
  cases x
  case io offset => exact ioWritten_declined (by simpa [ioTakes] using hk)
  all_goals first | rfl | exact absurd h (by simp [Target.writable])

/-- A write to a target leaves what every other target reads, but that a write the hook takes may change other I/O answers. -/
theorem readTarget_writeTarget_ne (s : State) (v : Byte) {x y : Target} (h : y ≠ x)
    (hk : ioTakes s v x = false ∨ y.isIo = false) : readTarget (writeTarget s v x) y = readTarget s y := by
  cases x
  case io offset =>
    rcases hk with hk | hk
    · rw [writeTarget_discarded s v rfl hk]
    · cases y <;> first | rfl | exact absurd hk (by simp [Target.isIo])
  all_goals
    cases y <;> first
      | rfl
      | exact absurd rfl h
      | exact Memory.read_write_ne _ v (fun hij => h (by rw [hij]))

/-- The bus read in the same store contents, selectors and configuration. -/
theorem busRead_eq (s : State) (addr : Word) : busRead s addr = readTarget s (busTarget s addr) := rfl

theorem busWrite_eq (s : State) (addr : Word) (v : Byte) : busWrite s addr v = writeTarget s v (busTarget s addr) := rfl

end Sys2Proof.Machine
end

