-- ==== Sys2Proof/Laws/Decode.lean ====
section
/-! SUPPORT. The register-code table read both ways, and the fields of an opcode byte. -/

namespace Sys2Proof

@[simp] theorem regOfCode_codeOfReg (r : Reg8) : regOfCode (codeOfReg r) = some r := by cases r <;> rfl

/-- Code 110 is the only code that selects no register (10_state.md R26). -/
theorem regOfCode_eq_none : ∀ c : Code, regOfCode c = none ↔ c = 0b110#3 := by decide

theorem codeOfReg_of_regOfCode : ∀ c : Code, ∀ r : Reg8, regOfCode c = some r → codeOfReg r = c := by
  intro c r
  revert c
  cases r <;> decide

/-- An opcode byte is the concatenation of its three fields (30_encoding.md R111). -/
theorem op8_fields : ∀ b : Byte, op8 (op8Blk b) (op8Dst b) (op8Src b) = b := by decide

@[simp] theorem encode_length (i : Instr) : (encode i).length = 1 := rfl

end Sys2Proof
end

