-- ==== Sys2Proof/Laws/Ops.lean ====
section
/-! SUPPORT. What the shared operations, `exec` and `step` can do, said once. -/

namespace Sys2Proof.Machine

/-- `load8` with a register code: the byte at HL into that register, PC past the instruction. -/
theorem load8_of_reg (r : Reg8) (s : State) :
    load8 (codeOfReg r) s = .next (advancePc 1 (writeReg s (readIndirectHl s) r)) := by
  cases r <;> rfl

/-- `load8` stops only on code 110 (10_state.md R26). -/
theorem load8_of_memory_code (s : State) : load8 0b110#3 s = .fault (.invalidRegisterCode 0b110#3) := rfl

/-- The instruction that loads `r`. -/
theorem exec_loadOfReg (r : Reg8) (s : State) :
    exec (loadOfReg r) s = .next (advancePc 1 (writeReg s (readIndirectHl s) r)) := by
  cases r <;> rfl

/-- An instruction is a load, or it halts. -/
theorem exec_cases (i : Instr) (s : State) :
    (∃ r, i = loadOfReg r ∧ exec i s = .next (advancePc 1 (writeReg s (readIndirectHl s) r))) ∨
    ((∀ r, i ≠ loadOfReg r) ∧ exec i s = .next (enterHalted s)) := by
  cases i
  case ldBHl => exact .inl ⟨.b, rfl, rfl⟩
  case ldCHl => exact .inl ⟨.c, rfl, rfl⟩
  case ldDHl => exact .inl ⟨.d, rfl, rfl⟩
  case ldEHl => exact .inl ⟨.e, rfl, rfl⟩
  case ldHHl => exact .inl ⟨.h, rfl, rfl⟩
  case ldLHl => exact .inl ⟨.l, rfl, rfl⟩
  case ldAHl => exact .inl ⟨.a, rfl, rfl⟩
  all_goals exact .inr ⟨fun r => by cases r <;> simp [loadOfReg], rfl⟩

/-- Everything a step can do: nothing while Halted, a load into one register with PC advanced, or the transition to Halted. -/
theorem step_cases (s : State) :
    (s.run = .halted ∧ step s = .next s) ∨
    (s.run = .running ∧ ∃ r, fetchInstr s = loadOfReg r ∧
      step s = .next (advancePc 1 (writeReg s (readIndirectHl s) r))) ∨
    (s.run = .running ∧ (∀ r, fetchInstr s ≠ loadOfReg r) ∧ step s = .next (enterHalted s)) := by
  unfold step
  cases s.run with
  | halted => exact .inl ⟨rfl, rfl⟩
  | running =>
    rcases exec_cases (fetchInstr s) s with ⟨r, hi, he⟩ | ⟨hi, he⟩
    · exact .inr (.inl ⟨rfl, r, hi, he⟩)
    · exact .inr (.inr ⟨rfl, hi, he⟩)

/-- A bus read looks at the stores, the selectors, the attached peripheral and the configuration only. -/
theorem busRead_congr {s t : State} (hb : t.romBank = s.romBank ∧ t.vramBank = s.vramBank ∧ t.wramBank = s.wramBank)
    (hs : t.rom = s.rom ∧ t.vram = s.vram ∧ t.extram = s.extram ∧ t.wram = s.wram ∧ t.oam = s.oam ∧ t.hram = s.hram)
    (hi : t.ie = s.ie) (hp : t.ioState = s.ioState) (hc : t.cfg = s.cfg) (addr : Word) : busRead t addr = busRead s addr := by
  obtain ⟨h1, h2, h3⟩ := hb
  obtain ⟨k1, k2, k3, k4, k5, k6⟩ := hs
  rw [busRead_eq, busRead_eq, busTarget_congr h1 h2 h3 hc]
  cases busTarget s addr <;> simp [readTarget, ioReadAnswer, k1, k2, k3, k4, k5, k6, hi, hp, hc]

@[simp] theorem busRead_writeReg (s : State) (v : Byte) (r : Reg8) (addr : Word) :
    busRead (writeReg s v r) addr = busRead s addr := busRead_congr (by simp) (by simp) (by simp) (by simp) (by simp) addr

@[simp] theorem busRead_advancePc (n : Nat) (s : State) (addr : Word) :
    busRead (advancePc n s) addr = busRead s addr := busRead_congr (by simp) (by simp) (by simp) (by simp) (by simp) addr

@[simp] theorem busRead_enterHalted (s : State) (addr : Word) : busRead (enterHalted s) addr = busRead s addr :=
  busRead_congr (by simp) (by simp) (by simp) (by simp) (by simp) addr

@[simp] theorem busRead_resume (s : State) (addr : Word) : busRead (resume s) addr = busRead s addr :=
  busRead_congr (by simp) (by simp) (by simp) (by simp) (by simp) addr

end Sys2Proof.Machine
end

