-- ==== Sys2Proof/Laws/HostMoves.lean ====
section
/-! SUPPORT. What the host's moves can do to the CPU of a session, said once. -/

namespace Sys2Proof.Machine

@[simp] theorem readReg_advancePc (n : Nat) (s : State) (r : Reg8) : readReg (advancePc n s) r = readReg s r := by
  cases r <;> rfl

/-- A step that answers a next state left the state alone, loaded one register, or halted. -/
theorem step_next_cases {s t : State} (h : step s = .next t) :
    t = s ∨ (∃ r, t = advancePc 1 (writeReg s (readIndirectHl s) r)) ∨ t = enterHalted s := by
  rcases step_cases s with ⟨-, e⟩ | ⟨-, r, -, e⟩ | ⟨-, -, e⟩
  · rw [h] at e; injection e with e; exact .inl e
  · rw [h] at e; injection e with e; exact .inr (.inl ⟨r, e⟩)
  · rw [h] at e; injection e with e; exact .inr (.inr e)

/-- A bank select that answers a next state stored one legal selector (20_memory.md R80). -/
theorem selectBank_next_cases {s t : State} {r : Region} {n : Nat} (h : selectBank s r n = .next t) :
    (r = .romN ∧ n < s.cfg.romBankCount ∧ t = { s with romBank := n }) ∨
    (r = .vram ∧ s.cfg.cgbMode = true ∧ n ≤ 1 ∧ t = { s with vramBank := n }) ∨
    (r = .wramN ∧ s.cfg.cgbMode = true ∧ (1 ≤ n ∧ n ≤ 7) ∧ t = { s with wramBank := n }) := by
  unfold selectBank at h
  cases r
  case romN =>
    simp only at h; split at h
    · rename_i hn; cases h; exact .inl ⟨rfl, hn, rfl⟩
    · cases h
  case vram =>
    simp only at h; split at h
    · rename_i hn; cases h; exact .inr (.inl ⟨rfl, hn.1, hn.2, rfl⟩)
    · cases h
  case wramN =>
    simp only at h; split at h
    · rename_i hn; cases h; exact .inr (.inr ⟨rfl, hn.1, hn.2, rfl⟩)
    · cases h
  all_goals cases h

/-- A ROM load that answers a next state filled the ROM from a buffer that fits (70_reset_and_hazards.md R243, R244). -/
theorem loadRom_next {s t : State} {buf : List Byte} (h : loadRom s buf = .next t) :
    buf.length ≤ s.cfg.maxRomSize ∧ t = { s with rom := Memory.ofBytesFrom 0 buf } := by
  unfold loadRom at h
  split at h
  · rename_i hb; cases h; exact ⟨hb, rfl⟩
  · cases h

/-- Where `set8` answers a state it wrote F or one general register (10_state.md R25, R27). -/
theorem set8_ok_cases {s t : State} {v : Byte} {sel : RegSel} (h : set8 s v sel = .ok t) :
    (sel = .fCode ∧ t = writeF s v) ∨ (∃ c r, sel = .code c ∧ regOfCode c = some r ∧ t = writeReg s v r) := by
  cases sel with
  | fCode => cases h; exact .inl ⟨rfl, rfl⟩
  | code c =>
    simp only [set8] at h
    split at h
    · rename_i r hr; cases h; exact .inr ⟨c, r, rfl, hr, rfl⟩
    · cases h

/-- What a move other than construction and discard does to the CPU: its CPU afterwards is the old one, or the result of exactly the
operation the move names. -/
theorem move_cases (x : Session) {s t : State} {m : HostMove} (hx : x.cpu = some s) (ht : (x.move m).2.cpu = some t) :
    (∃ cfg, m = .construct cfg ∧ t = State.construct cfg) ∨ t = s ∨
    (∃ buf, m = .loadRom buf ∧ loadRom s buf = .next t) ∨ (m = .step ∧ step s = .next t) ∨
    (m = .resume ∧ t = resume s) ∨ (∃ addr v, m = .busWrite addr v ∧ t = busWrite s addr v) ∨
    (∃ sel v, m = .set8 sel v ∧ set8 s v sel = .ok t) ∨ (∃ p w, m = .set16 p w ∧ t = set16 s w p) ∨
    (∃ flag on, m = .setFlag flag on ∧ t = setFlag s flag on) ∨
    (∃ r n, m = .selectBank r n ∧ selectBank s r n = .next t) := by
  have hsame : ∀ {u : Option State}, u = x.cpu → u = some t → t = s := fun h h' =>
    Option.some.inj ((h'.symm.trans h).trans hx)
  cases m <;> simp only [Session.move, hx, Session.onCpu] at ht
  case construct cfg => exact .inl ⟨cfg, rfl, (Option.some.inj ht).symm⟩
  case loadRom buf =>
    split at ht
    · exact .inr (.inl (hsame rfl ht))
    · cases h : loadRom s buf <;> rw [h] at ht
      · exact .inr (.inr (.inl ⟨buf, rfl, by rw [Option.some.inj ht] at h; exact h⟩))
      · exact .inr (.inl (hsame rfl ht))
      · exact .inr (.inl (hsame rfl ht))
  case step =>
    cases h : step s <;> rw [h] at ht
    · exact .inr (.inr (.inr (.inl ⟨rfl, by rw [← Option.some.inj ht]⟩)))
    · exact .inr (.inl (hsame rfl ht))
    · exact .inr (.inl (hsame rfl ht))
  case resume => exact .inr (.inr (.inr (.inr (.inl ⟨rfl, (Option.some.inj ht).symm⟩))))
  case busWrite addr v =>
    exact .inr (.inr (.inr (.inr (.inr (.inl ⟨addr, v, rfl, (Option.some.inj ht).symm⟩)))))
  case set8 sel v =>
    cases h : set8 s v sel <;> rw [h] at ht
    · exact .inr (.inl (hsame rfl ht))
    · exact .inr (.inr (.inr (.inr (.inr (.inr (.inl ⟨sel, v, rfl, by rw [Option.some.inj ht] at h; exact h⟩))))))
  case set16 p w =>
    exact .inr (.inr (.inr (.inr (.inr (.inr (.inr (.inl ⟨p, w, rfl, (Option.some.inj ht).symm⟩)))))))
  case setFlag flag on =>
    exact .inr (.inr (.inr (.inr (.inr (.inr (.inr (.inr (.inl ⟨flag, on, rfl, (Option.some.inj ht).symm⟩))))))))
  case selectBank r n =>
    cases h : selectBank s r n <;> rw [h] at ht
    · exact .inr (.inr (.inr (.inr (.inr (.inr (.inr (.inr (.inr ⟨r, n, rfl, by
        rw [Option.some.inj ht] at h; exact h⟩))))))))
    · exact .inr (.inl (hsame rfl ht))
    · exact .inr (.inl (hsame rfl ht))
  case get8 sel => exact .inr (.inl (by split at ht <;> exact hsame rfl ht))
  case busRead => exact .inr (.inl (Option.some.inj ht).symm)
  case get16 => exact .inr (.inl (Option.some.inj ht).symm)
  case getFlag => exact .inr (.inl (Option.some.inj ht).symm)
  case discard => cases ht

/-- A move that keeps the instance leaves the session with a CPU. -/
theorem move_keeps_cpu (x : Session) {s : State} {m : HostMove} (hx : x.cpu = some s) (hm : m ≠ .discard) :
    ∃ t, (x.move m).2.cpu = some t := by
  cases m <;> simp only [Session.move, hx, Session.onCpu]
  case discard => exact absurd rfl hm
  case loadRom buf =>
    split
    · exact ⟨s, hx⟩
    · cases loadRom s buf <;> first | exact ⟨_, rfl⟩ | exact ⟨s, hx⟩
  case step => cases step s <;> first | exact ⟨_, rfl⟩ | exact ⟨s, hx⟩
  case get8 sel => cases get8 s sel <;> exact ⟨s, hx⟩
  case set8 sel v => cases set8 s v sel <;> first | exact ⟨_, rfl⟩ | exact ⟨s, hx⟩
  case selectBank r n => cases selectBank s r n <;> first | exact ⟨_, rfl⟩ | exact ⟨s, hx⟩
  all_goals exact ⟨_, rfl⟩

end Sys2Proof.Machine
end

