-- ==== Sys2Proof/Laws/Invariant.lean ====
section
/-! SUPPORT. The canonical form of the stores: the state after construction has it, and every operation that writes a store keeps it. -/

namespace Sys2Proof.Machine

/-- The offset of an address lies inside its region (20_memory.md R63). -/
theorem decodeNat_offset_lt {n : Nat} (h : n < 0x10000) : (decodeNat n).2 < (decodeNat n).1.size := by
  unfold decodeNat
  repeat' split
  all_goals simp only [Region.size]; omega

/-- The index behind a target lies inside its store. -/
def Target.inside (cfg : Config) : Target → Prop
  | .rom i => i < cfg.maxRomSize
  | .vram i => i < 0x4000
  | .extram i => cfg.extRamPresent = true ∧ i < 0x2000
  | .wram i => i < 0x8000
  | .oam i => i < 0xA0
  | .hram i => i < 0x7F
  | .ie => True
  | .io offset => offset < 0x80
  | .unbacked => True

/-- With legal selectors and at least two ROM banks, the bus reaches only bytes inside the stores (20_memory.md R67, R81). -/
theorem busTarget_inside {s : State} (hb : s.BanksLegal) (hc : 2 ≤ s.cfg.romBankCount) (addr : Word) :
    (busTarget s addr).inside s.cfg := by
  unfold busTarget decodeAddress
  have hlt := decodeNat_offset_lt (redirect addr).isLt
  generalize decodeNat (redirect addr).toNat = d at hlt
  obtain ⟨r, off⟩ := d
  obtain ⟨b1, b2, b3, b4⟩ := hb
  have hmul : (s.romBank + 1) * 0x4000 ≤ s.cfg.romBankCount * 0x4000 := Nat.mul_le_mul_right _ b1
  cases r
  case extram =>
    cases hx : s.cfg.extRamPresent <;> simp only [regionTarget, hx]
    · trivial
    · exact ⟨hx, hlt⟩
  all_goals
    simp only [regionTarget, Target.inside, Region.size, Config.maxRomSize] at hlt ⊢
    try omega

/-- Construction leaves every store canonical. -/
theorem construct_storesCanonical (cfg : Config) : (State.construct cfg).StoresCanonical :=
  ⟨⟨rfl, rfl⟩, ⟨rfl, rfl⟩, ⟨rfl, rfl⟩, ⟨rfl, rfl⟩, ⟨rfl, rfl⟩, ⟨rfl, rfl⟩⟩

/-- A write to a target inside the stores keeps them canonical. -/
theorem writeTarget_storesCanonical {s : State} (hs : s.StoresCanonical) (v : Byte) {x : Target} (hx : x.inside s.cfg) :
    (writeTarget s v x).StoresCanonical := by
  obtain ⟨k1, k2, k3, k4, k5, k6⟩ := hs
  cases x
  case vram i => exact ⟨k1, ⟨Memory.wf_write k2.1 i v, Memory.within_write _ v hx k2.2⟩, k3, k4, k5, k6⟩
  case extram i =>
    exact ⟨k1, k2, ⟨Memory.wf_write k3.1 i v, Memory.within_write _ v
      (show i < if s.cfg.extRamPresent = true then 0x2000 else 0 by rw [if_pos hx.1]; exact hx.2) k3.2⟩, k4, k5, k6⟩
  case wram i => exact ⟨k1, k2, k3, ⟨Memory.wf_write k4.1 i v, Memory.within_write _ v hx k4.2⟩, k5, k6⟩
  case oam i => exact ⟨k1, k2, k3, k4, ⟨Memory.wf_write k5.1 i v, Memory.within_write _ v hx k5.2⟩, k6⟩
  case hram i => exact ⟨k1, k2, k3, k4, k5, ⟨Memory.wf_write k6.1 i v, Memory.within_write _ v hx k6.2⟩⟩
  all_goals exact ⟨k1, k2, k3, k4, k5, k6⟩

/-- A bus write keeps the stores canonical. -/
theorem busWrite_storesCanonical {s : State} (hs : s.StoresCanonical) (hb : s.BanksLegal)
    (hc : 2 ≤ s.cfg.romBankCount) (addr : Word) (v : Byte) : (busWrite s addr v).StoresCanonical :=
  writeTarget_storesCanonical hs v (busTarget_inside hb hc addr)

/-- A ROM load that fits keeps the stores canonical. -/
theorem loadRom_storesCanonical {s t : State} (hs : s.StoresCanonical) {buf : List Byte} (h : loadRom s buf = .next t) :
    t.StoresCanonical := by
  obtain ⟨hb, rfl⟩ := loadRom_next h
  exact ⟨⟨Memory.wf_ofBytesFrom 0 buf, Memory.within_ofBytesFrom buf (by simpa using hb)⟩, hs.2⟩

end Sys2Proof.Machine
end

