-- ==== Sys2Proof/Laws/PerInstr.lean ====
section
/-! SUPPORT. A fact about every instruction, one lemma per constructor. -/

namespace Sys2Proof.Laws.MatchesRow

/-- A well-formed instruction's opcode byte has the pattern of the instruction's own row of the opcode table, and that row is in
the table (30_encoding.md R124). -/
def Statement (i : Instr) : Prop :=
  i.wf = true → i.row.matches (encodeOpcode i) = true ∧ i.row ∈ opcodeTable

theorem ldBHl : Statement .ldBHl := fun _ => by decide
theorem ldCHl : Statement .ldCHl := fun _ => by decide
theorem ldDHl : Statement .ldDHl := fun _ => by decide
theorem ldEHl : Statement .ldEHl := fun _ => by decide
theorem ldHHl : Statement .ldHHl := fun _ => by decide
theorem ldLHl : Statement .ldLHl := fun _ => by decide
theorem ldAHl : Statement .ldAHl := fun _ => by decide
theorem unimplBlk00 (opcode : Byte) : Statement (.unimplBlk00 opcode) := fun h => ⟨h, by simp [opcodeTable, Instr.row]⟩
theorem unimplBlk10 (opcode : Byte) : Statement (.unimplBlk10 opcode) := fun h => ⟨h, by simp [opcodeTable, Instr.row]⟩
theorem unimplBlk11 (opcode : Byte) : Statement (.unimplBlk11 opcode) := fun h => ⟨h, by simp [opcodeTable, Instr.row]⟩
theorem unimplBlk01Src0 (opcode : Byte) : Statement (.unimplBlk01Src0 opcode) := fun h => ⟨h, by simp [opcodeTable, Instr.row]⟩
theorem unimplBlk01Src4 (opcode : Byte) : Statement (.unimplBlk01Src4 opcode) := fun h => ⟨h, by simp [opcodeTable, Instr.row]⟩
theorem unimplBlk01Src7 (opcode : Byte) : Statement (.unimplBlk01Src7 opcode) := fun h => ⟨h, by simp [opcodeTable, Instr.row]⟩
theorem unimpl76 : Statement .unimpl76 := fun _ => by decide

end Sys2Proof.Laws.MatchesRow
end

