-- ==== Sys2Proof/Tests/Slice0.lean ====
section
/-! SUPPORT. Tests of the model, their expected values taken from the spec's own examples and tables (95_test_vectors.md, 20_memory.md R94,
30_encoding.md R115, R116), and for each statement with hypotheses a witness that meets them. -/

namespace Sys2Proof.Tests

open Sys2Proof.Machine

/-- The default configuration of 95_test_vectors.md, CGB mode off. -/
def plainCfg : Config := ⟨2, false, false, 2, 1, 0, 1, [], []⟩

/-- Four ROM banks, CGB mode, external RAM, and a peripheral at offset 0x0F of the I/O window: it answers 0x1F, takes the byte 0x33 only,
and answers 0x33 from then on. -/
def fullCfg : Config := ⟨4, true, true, 2, 1, 0, 1, [⟨0, 0x0F, 0x1F#8⟩, ⟨1, 0x0F, 0x33#8⟩], [⟨0, 0x0F, 0x33#8, 1⟩]⟩

/-- A constructed CPU with these bytes at the start of its ROM. -/
def withRom (bytes : List Byte) : State := { State.construct plainCfg with rom := Memory.ofBytesFrom 0 bytes }

/-- The common start state S of 95_test_vectors.md 2.4, `op` at PC. -/
def startS (op : Byte) : State :=
  { State.construct plainCfg with
    a := 0x01#8, b := 0x02#8, c := 0x03#8, d := 0x04#8, e := 0x05#8, h := 0xC1#8, l := 0x23#8, f := 0xB0#8,
    sp := 0xDFF0#16, pc := 0x0150#16, rom := [(0x150, op)], wram := [(0x123, 0x9C#8)] }

/-- One value of the next state. -/
def after {α : Type} (o : Host.Outcome State Fault Refusal) (g : State → α) : Option α :=
  match o with
  | .next t => some (g t)
  | .fault _ => none
  | .refused _ => none

/-- The eight registers, PC and SP. -/
def regs (s : State) : List Byte × Word × Word := ([s.a, s.b, s.c, s.d, s.e, s.h, s.l, s.f], s.pc, s.sp)

/-! ### Ill-formed instructions are refused by `wf` -/

theorem test_wf_refuses_blk00 : Instr.wf (.unimplBlk00 0x46#8) = false := by decide
theorem test_wf_refuses_blk10 : Instr.wf (.unimplBlk10 0x00#8) = false := by decide
theorem test_wf_refuses_blk11 : Instr.wf (.unimplBlk11 0x7E#8) = false := by decide
theorem test_wf_refuses_src0 : Instr.wf (.unimplBlk01Src0 0x44#8) = false := by decide
theorem test_wf_refuses_src4 : Instr.wf (.unimplBlk01Src4 0x46#8) = false := by decide
theorem test_wf_refuses_src7 : Instr.wf (.unimplBlk01Src7 0x7E#8) = false := by decide
theorem test_cfg_wf_refuses : ([⟨1, false, false, 2, 0, 0, 1, [], []⟩, ⟨2, false, false, 2, 2, 0, 1, [], []⟩,
    ⟨2, false, false, 2, 1, 2, 1, [], []⟩, ⟨2, false, false, 2, 1, 0, 0, [], []⟩,
    ⟨2, false, false, 2, 1, 0, 8, [], []⟩] : List Config).all (fun c => !c.wf) = true := by decide

/-! ### Decoding, each constructor by a word written out from R115 and R116 (V-D1 to V-D19) -/

theorem test_decode_ldB : decodeTableWord 8 0b01000110 = some .ldBHl := by decide
theorem test_decode_ldC : decodeTableWord 8 0b01001110 = some .ldCHl := by decide
theorem test_decode_ldD : decodeTableWord 8 0b01010110 = some .ldDHl := by decide
theorem test_decode_ldE : decodeTableWord 8 0b01011110 = some .ldEHl := by decide
theorem test_decode_ldH : decodeTableWord 8 0b01100110 = some .ldHHl := by decide
theorem test_decode_ldL : decodeTableWord 8 0b01101110 = some .ldLHl := by decide
theorem test_decode_ldA : decodeTableWord 8 0b01111110 = some .ldAHl := by decide
theorem test_decode_3E : decodeTableWord 8 0b00111110 = some (.unimplBlk00 0x3E#8) := by decide
theorem test_decode_BE : decodeTableWord 8 0b10111110 = some (.unimplBlk10 0xBE#8) := by decide
theorem test_decode_FE : decodeTableWord 8 0b11111110 = some (.unimplBlk11 0xFE#8) := by decide
theorem test_decode_CB : decodeTableWord 8 0b11001011 = some (.unimplBlk11 0xCB#8) := by decide
theorem test_decode_7A : decodeTableWord 8 0b01111010 = some (.unimplBlk01Src0 0x7A#8) := by decide
theorem test_decode_7C : decodeTableWord 8 0b01111100 = some (.unimplBlk01Src4 0x7C#8) := by decide
theorem test_decode_7F : decodeTableWord 8 0b01111111 = some (.unimplBlk01Src7 0x7F#8) := by decide
theorem test_decode_76 : decodeTableWord 8 0b01110110 = some .unimpl76 := by decide
theorem test_decode_no_byte : decode [] = .error .noOpcodeByte := by rfl
/-- V-U3: the byte after 0xCB is not read. -/
theorem test_decode_leaves_rest : decode [0xCB#8, 0x46#8] = .ok (.unimplBlk11 0xCB#8, [0x46#8]) := by rfl

/-! ### The loads: V-L1 to V-L7, then corner cases -/

theorem test_ldB : after (step (startS 0x46#8)) regs =
    some ([0x01#8, 0x9C#8, 0x03#8, 0x04#8, 0x05#8, 0xC1#8, 0x23#8, 0xB0#8], 0x0151#16, 0xDFF0#16) := by decide
theorem test_ldC : after (step (startS 0x4E#8)) regs =
    some ([0x01#8, 0x02#8, 0x9C#8, 0x04#8, 0x05#8, 0xC1#8, 0x23#8, 0xB0#8], 0x0151#16, 0xDFF0#16) := by decide
theorem test_ldD : after (step (startS 0x56#8)) regs =
    some ([0x01#8, 0x02#8, 0x03#8, 0x9C#8, 0x05#8, 0xC1#8, 0x23#8, 0xB0#8], 0x0151#16, 0xDFF0#16) := by decide
theorem test_ldE : after (step (startS 0x5E#8)) regs =
    some ([0x01#8, 0x02#8, 0x03#8, 0x04#8, 0x9C#8, 0xC1#8, 0x23#8, 0xB0#8], 0x0151#16, 0xDFF0#16) := by decide
theorem test_ldH : after (step (startS 0x66#8)) regs =
    some ([0x01#8, 0x02#8, 0x03#8, 0x04#8, 0x05#8, 0x9C#8, 0x23#8, 0xB0#8], 0x0151#16, 0xDFF0#16) := by decide
theorem test_ldL : after (step (startS 0x6E#8)) regs =
    some ([0x01#8, 0x02#8, 0x03#8, 0x04#8, 0x05#8, 0xC1#8, 0x9C#8, 0xB0#8], 0x0151#16, 0xDFF0#16) := by decide
theorem test_ldA : after (step (startS 0x7E#8)) regs =
    some ([0x9C#8, 0x02#8, 0x03#8, 0x04#8, 0x05#8, 0xC1#8, 0x23#8, 0xB0#8], 0x0151#16, 0xDFF0#16) := by decide
theorem test_load_result : stepResult (startS 0x7E#8) = .ok 2 := by decide
/-- V-L10: from reset the instruction loads its own opcode. -/
theorem test_ldA_own_opcode : after (step (withRom [0x7E#8])) (fun t => (t.a, t.pc)) = some (0x7E#8, 0x0001#16) := by decide
/-- V-L11: the old H forms the address. -/
theorem test_ldH_old_h : after (step { withRom [0x66#8, 0x80#8] with l := 0x01#8 }) (fun t => (get16 t .hl, t.pc)) =
    some (0x8001#16, 0x0001#16) := by decide
/-- V-L12: the old L forms the address. -/
theorem test_ldL_old_l : after (step { withRom [0x6E#8, 0x00#8, 0xFF#8] with l := 0x02#8 }) (fun t => get16 t .hl) =
    some 0x00FF#16 := by decide
/-- V-L13: absent external RAM. -/
theorem test_ldB_absent_ram : after (step { withRom [0x46#8] with h := 0xA0#8 }) (·.b) = some 0xFF#8 := by decide
/-- V-L14: the Unusable range. -/
theorem test_ldC_unusable : after (step { withRom [0x4E#8] with h := 0xFE#8, l := 0xA0#8 }) (·.c) = some 0xFF#8 := by decide
/-- V-L15: the I/O window with nothing attached. -/
theorem test_ldD_io : after (step { withRom [0x56#8] with h := 0xFF#8 }) (·.d) = some 0xFF#8 := by decide
/-- V-L16: the Interrupt Enable register. -/
theorem test_ldE_ie : after (step { withRom [0x5E#8] with h := 0xFF#8, l := 0xFF#8, ie := 0x15#8 }) (·.e) = some 0x15#8 := by
  decide
/-- V-L20: fetch from 0xFFFF and the wrap of PC. -/
theorem test_pc_wrap : after (step { withRom [] with pc := 0xFFFF#16, ie := 0x7E#8, h := 0xFF#8, l := 0xFF#8 })
    (fun t => (t.a, t.pc)) = some (0x7E#8, 0x0000#16) := by decide

/-! ### Unmapped opcodes and the loop: V-U1, V-U2, V-U4, V-U6, V-U7, V-U10, T9 -/

theorem test_unmapped_blk00 : after (step (withRom [])) (fun t => (t.run, t.pc)) = some (.halted, 0x0000#16) := by decide
theorem test_unmapped_blk00_error : stepResult (withRom []) = .err (.unimplementedOpcode 0x00#8 0x0000#16) := by decide
theorem test_unmapped_76 : after (step (startS 0x76#8)) (fun t => (t.run, regs t)) =
    some (.halted, regs (startS 0x76#8)) := by decide
theorem test_unmapped_76_error : stepResult (startS 0x76#8) = .err (.unimplementedOpcode 0x76#8 0x0150#16) := by decide
theorem test_unmapped_blk11 : stepResult (withRom [0xD3#8]) = .err (.unimplementedOpcode 0xD3#8 0x0000#16) := by decide
theorem test_unmapped_cb_accesses : stepAccesses (startS 0xCB#8) = [.read 0x0150#16] := by decide
theorem test_unmapped_blk10 : stepResult (withRom [0x80#8]) = .err (.unimplementedOpcode 0x80#8 0x0000#16) := by decide
theorem test_unmapped_src0 : stepResult (withRom [0x40#8]) = .err (.unimplementedOpcode 0x40#8 0x0000#16) := by decide
theorem test_unmapped_src4 : stepResult (withRom [0x7C#8]) = .err (.unimplementedOpcode 0x7C#8 0x0000#16) := by decide
theorem test_unmapped_src7 : stepResult (startS 0x47#8) = .err (.unimplementedOpcode 0x47#8 0x0150#16) := by decide
theorem test_fetch_unusable : stepResult { withRom [] with pc := 0xFEA0#16 } =
    .err (.unimplementedOpcode 0xFF#8 0xFEA0#16) := by decide
theorem test_halted_idle : stepResult { withRom [0x7E#8] with run := .halted } = .idle ∧
    after (step { withRom [0x7E#8] with run := .halted }) (·.pc) = some 0x0000#16 := by decide
theorem test_load_accesses : stepAccesses (startS 0x7E#8) = [.read 0x0150#16, .read 0xC123#16] := by decide

/-! ### The register file: V-RF2, V-RF5 to V-RF7, V-RF13 to V-RF16 -/

theorem test_get8_110 : get8 (withRom []) (.code 0b110#3) = .error (.invalidRegisterCode 0b110#3) := by rfl
theorem test_set8_f_masks : (set8 (withRom []) 0xA5#8 .fCode).toOption.map (·.f) = some 0xA0#8 := by decide
theorem test_set16_af : get16 (set16 (withRom []) 0xABCD#16 .af) .af = 0xABC0#16 := by decide
theorem test_set16_bc : (set16 (withRom []) 0xBEEF#16 .bc).b = 0xBE#8 ∧ (set16 (withRom []) 0xBEEF#16 .bc).c = 0xEF#8 := by decide
theorem test_get16_hl : get16 { withRom [] with h := 0x12#8, l := 0x34#8 } .hl = 0x1234#16 := by decide
theorem test_set_flag_c : (setFlag { withRom [] with f := 0x80#8 } .c true).f = 0x90#8 := by decide
theorem test_set_flag_z_off : (setFlag { withRom [] with f := 0x90#8 } .z false).f = 0x10#8 := by decide
theorem test_set_flag_h_n : (setFlag (setFlag { withRom [] with f := 0x10#8 } .h true) .n true).f = 0x70#8 := by decide
theorem test_get_flags : [Flag.z, .n, .h, .c].map (getFlag { withRom [] with f := 0xB0#8 }) = [true, false, true, true] := by
  decide

/-! ### The bus: R94 and V-M5, V-M6, V-M9, V-M16 to V-M21 -/

/-- Write one byte, then read one. -/
def writeRead (s : State) (a : Word) (v : Byte) (b : Word) : Byte := busRead (busWrite s a v) b

theorem test_rom_write_discarded : writeRead (withRom [0x31#8]) 0x0000#16 0x99#8 0x0000#16 = 0x31#8 := by decide
theorem test_vram_top : writeRead (withRom []) 0x9FFF#16 0x34#8 0x9FFF#16 = 0x34#8 := by decide
theorem test_absent_ram : writeRead (withRom []) 0xBFFF#16 0x77#8 0xBFFF#16 = 0xFF#8 := by decide
theorem test_present_ram : writeRead (State.construct fullCfg) 0xBFFF#16 0x77#8 0xBFFF#16 = 0x77#8 := by decide
theorem test_echo_bank0 : writeRead (withRom []) 0xCFFF#16 0x56#8 0xEFFF#16 = 0x56#8 := by decide
theorem test_echo_bankN : writeRead (withRom []) 0xF000#16 0x78#8 0xD000#16 = 0x78#8 := by decide
theorem test_echo_top : writeRead (withRom []) 0xFDFF#16 0x9A#8 0xDDFF#16 = 0x9A#8 := by decide
theorem test_no_echo_of_DE00 : writeRead (withRom []) 0xDE00#16 0xBC#8 0xFE00#16 = 0x00#8 := by decide
theorem test_oam_top : writeRead (withRom []) 0xFE9F#16 0xDE#8 0xFE9F#16 = 0xDE#8 := by decide
theorem test_unusable : writeRead (withRom []) 0xFEA0#16 0x00#8 0xFEA0#16 = 0xFF#8 ∧ busRead (withRom []) 0xFEFF#16 = 0xFF#8 := by
  decide
theorem test_io : writeRead (withRom []) 0xFF0F#16 0x1F#8 0xFF0F#16 = 0xFF#8 := by decide
theorem test_io_hook : busRead (State.construct fullCfg) 0xFF0F#16 = 0x1F#8 ∧ busRead (State.construct fullCfg) 0xFF10#16 = 0xFF#8 := by
  decide
theorem test_hram : writeRead (withRom []) 0xFF80#16 0x11#8 0xFF80#16 = 0x11#8 ∧
    writeRead (withRom []) 0xFFFE#16 0x22#8 0xFFFE#16 = 0x22#8 := by decide
theorem test_ie : writeRead (withRom []) 0xFFFF#16 0xFF#8 0xFFFF#16 = 0xFF#8 := by decide
/-- V-M18: the ROM window under four selectors. -/
theorem test_rom_banks : [1, 2, 3, 0].map (fun n => busRead { State.construct fullCfg with
      rom := [(0, 0xB0#8), (0x4000, 0xB1#8), (0x8000, 0xB2#8), (0xC000, 0xB3#8)], romBank := n } 0x4000#16) =
    [0xB1#8, 0xB2#8, 0xB3#8, 0xB0#8] := by decide
/-- V-M6, V-M9: the work-RAM window follows the selector, its echo too, and bank 0 does not. -/
theorem test_wram_bank : busRead { busWrite (State.construct fullCfg) 0xD000#16 0x51#8 with wramBank := 2 } 0xD000#16 = 0x00#8 ∧
    writeRead { State.construct fullCfg with wramBank := 3 } 0xF000#16 0xC3#8 0xD000#16 = 0xC3#8 := by decide
theorem test_write_zero_unlists : (busWrite (busWrite (withRom []) 0xC000#16 0x12#8) 0xC000#16 0x00#8).wram = [] := by decide
theorem test_select_rom_refused : after (selectBank (State.construct plainCfg) .romN 2) (·.romBank) = none := by decide
theorem test_select_wram : [0, 1, 7, 8].map (fun n => after (selectBank (State.construct fullCfg) .wramN n) (·.wramBank)) =
    [none, some 1, some 7, none] := by decide
theorem test_select_outside_cgb : after (selectBank (State.construct plainCfg) .vram 1) (·.vramBank) = none := by decide

/-! ### Construction, ROM load, the session: V-B4, V-B6, V-B7 and R248 -/

/-- The session after moves from a constructed CPU. -/
def sessionAfter (ms : List HostMove) : Session := (Session.start.move (.construct plainCfg)).2.after ms

theorem test_load_replaces : (sessionAfter [.loadRom [1#8, 2#8, 3#8], .loadRom [9#8]]).cpu.map (·.rom) = some [(0, 9#8)] := by decide
theorem test_load_after_step : ((sessionAfter [.loadRom [0x7E#8], .step]).move (.loadRom [0x46#8])).1 =
    .refused .romLoadAfterFirstStep := by decide
theorem test_resume_then_step : ((sessionAfter [.step, .resume]).move .step).1 =
    .stepped (.err (.unimplementedOpcode 0x00#8 0x0000#16)) := by decide
theorem test_io_write_taken : (((Session.start.move (.construct fullCfg)).2).move (.busWrite 0xFF0F#16 0x33#8)).1 =
    .ioTaken 0x0F 0x33#8 := by decide
/-- R75: the hook may decline by value, and its effect on a write it takes shows in its next answer. -/
theorem test_io_write_declined : (((Session.start.move (.construct fullCfg)).2).move (.busWrite 0xFF0F#16 0x34#8)) =
    (.done, (Session.start.move (.construct fullCfg)).2) := by decide
theorem test_io_write_effect : writeRead (State.construct fullCfg) 0xFF0F#16 0x33#8 0xFF0F#16 = 0x33#8 ∧
    writeRead (State.construct fullCfg) 0xFF0F#16 0x34#8 0xFF0F#16 = 0x1F#8 := by decide
theorem test_discard : ((sessionAfter [.discard]).move .step).1 = .refused .noCpu := by decide
theorem test_fetch_word : after (step (State.reset.withFetchWord 8 0x6E)) (·.l) = some 0x6E#8 := by decide
/-- At an unbacked PC the word is placed at address 0. -/
theorem test_fetch_word_unbacked : after (step ({ withRom [] with pc := 0xFEA0#16, run := .halted }.withFetchWord 8 0x7E))
    (fun t => (t.a, t.pc)) = some (0x7E#8, 0x0001#16) := by decide

/-! ### Witnesses: states and operands that meet the hypotheses of the statements -/

/-- A state with its stores in use and selectors away from their reset values. -/
def busyState : State :=
  { State.construct fullCfg with
    f := 0xB0#8, h := 0xC1#8, l := 0x23#8, romBank := 3, vramBank := 1, wramBank := 7,
    rom := [(0, 0x7E#8), (0xFFFF, 0x01#8)], vram := [(0x3FFF, 2#8)], extram := [(0, 3#8)], wram := [(0x123, 0x9C#8), (0x7FFF, 5#8)],
    oam := [(0x9F, 6#8)], hram := [(0x7E, 7#8)] }

/-- `BusWriteStoresOneByteOrNone`, `ReadsArePureAndWritesIdempotent`, `StepKeepsInvariant`, `PlacedWordIsTheNextInstruction`: the invariant. -/
theorem witness_invariant : busyState.Inv := by decide

/-- `ConstructionMeetsInvariant`: legal parameters. -/
theorem witness_config : plainCfg.wf = true ∧ fullCfg.wf = true := by decide

/-- `RegisterCodesSelectRegisters`: a write that succeeds and a descriptor of an operation. -/
theorem witness_register_codes : (∃ t, set8 busyState 0x12#8 (.code 0b111#3) = .ok t) ∧
    (∃ o, (decodeOpcode 0x7E#8).descriptor 2 0#16 = .op o) := ⟨⟨_, rfl⟩, ⟨_, rfl⟩⟩

/-- `RegisterWriteReadsBack`: a code other than 110, and another code. -/
theorem witness_register_write : (0b000#3 : Code) ≠ 0b110#3 ∧ (0b110#3 : Code) ≠ 0b000#3 := by decide

/-- `FlagRegisterLowNibbleZero`: a write of F and a state whose low nibble is 0. -/
theorem witness_flag_register : (∃ t, set8 busyState 0xFF#8 .fCode = .ok t) ∧ busyState.f &&& 0x0F#8 = 0#8 := ⟨⟨_, rfl⟩, by decide⟩

/-- `PairsAreViews`: the two writes in a row. -/
theorem witness_pair_views : ∃ t u, set8 busyState 0x80#8 (.code 0b100#3) = .ok t ∧ set8 t 0x00#8 (.code 0b101#3) = .ok u :=
  ⟨_, _, rfl, rfl⟩

/-- `FlagWriteTouchesOneBit`: two flags. -/
theorem witness_other_flag : Flag.z ≠ Flag.c := by decide

/-- `AddressDecodeFollowsMap`, `RegionsPartitionAddressSpace`, `LoadedByteByRegion` and the region statements: the first and last address of
each region decode to it, at offset 0 and at its size less one. -/
theorem witness_region_bounds :
    [Region.rom0, .romN, .vram, .extram, .wram0, .wramN, .echo, .oam, .unusable, .io, .hram, .ie].all (fun r =>
      decodeAddress (BitVec.ofNat 16 r.first) == (r, 0) &&
      decodeAddress (BitVec.ofNat 16 (r.first + r.size - 1)) == (r, r.size - 1)) = true := by decide

/-- `LoadedByteByRegion`, clause by clause: HL at the first address of each region, and the empty hook table. -/
theorem witness_loaded_byte_regions :
    [0x0000, 0x4000, 0x8000, 0xA000, 0xC000, 0xD000, 0xE000, 0xFE00, 0xFEA0, 0xFF00, 0xFF80, 0xFFFF].all (fun n =>
      (get16 { withRom [] with h := BitVec.ofNat 8 (n / 256), l := BitVec.ofNat 8 (n % 256) } .hl).toNat == n) = true ∧
    plainCfg.ioRead = [] ∧ get16 (withRom [0x7E#8]) .hl = (withRom [0x7E#8]).pc := by decide

/-- `EchoMirrorsWorkRam`: both ends of both halves of the echo, and both ends of the part without one. -/
theorem witness_echo : 0xE000 ≤ (0xE000#16).toNat ∧ (0xEFFF#16).toNat ≤ 0xEFFF ∧ 0xF000 ≤ (0xF000#16).toNat ∧
    (0xFDFF#16).toNat ≤ 0xFDFF ∧ 0xDE00 ≤ (0xDE00#16).toNat ∧ (0xDFFF#16).toNat ≤ 0xDFFF ∧ busyState.Inv ∧
    busTarget busyState 0xF000#16 = .wram 0x7000 ∧ busTarget busyState 0xDE00#16 = .wram 0x7E00 := by decide

/-- `SwitchableRamWindows`, `ExternalRamPresentOrAbsent`, `BankSelectStoresOrRefuses`, `ConstructionIsZeroInitialized`: the configurations
they name. -/
theorem witness_configurations : plainCfg.cgbMode = false ∧ fullCfg.cgbMode = true ∧ plainCfg.extRamPresent = false ∧
    fullCfg.extRamPresent = true ∧ 3 < fullCfg.romBankCount ∧ ¬ (2 < plainCfg.romBankCount) := by decide

/-- `IoWindowFallsBack`, clause by clause: the hooks answering, taking and declining, and nothing attached. -/
theorem witness_io_hooks : ioReadAnswer busyState 0x0F = some 0x1F#8 ∧ ioWriteAnswer busyState 0x0F 0x33#8 = some 1 ∧
    ioWriteAnswer busyState 0x0F 0x34#8 = none ∧ (∀ v : Byte, (⟨busyState.ioState, 0x10, v⟩ : IoReadEntry) ∉ busyState.cfg.ioRead) ∧
    (∀ next : Nat, (⟨busyState.ioState, 0x0F, 0x34#8, next⟩ : IoWriteEntry) ∉ busyState.cfg.ioWrite) ∧
    plainCfg.ioRead = [] ∧ plainCfg.ioWrite = [] := by
  refine ⟨by decide, by decide, by decide, fun v => ?_, fun next => ?_, rfl, rfl⟩ <;> simp [busyState, fullCfg, State.construct]

/-- `BusWriteStoresOneByteOrNone`, `ReadsArePureAndWritesIdempotent`: a writable target, a discarding one, one whose write the hook takes
and an I/O target beside it, and a step. -/
theorem witness_bus_write : (busTarget busyState 0xC000#16).writable = true ∧ (busTarget busyState 0xFEA0#16).writable = false ∧
    busTarget busyState 0xC000#16 ≠ busTarget busyState 0x8000#16 ∧
    ioTakes busyState 0x33#8 (busTarget busyState 0xFF0F#16) = true ∧ ioTakes busyState 0x12#8 (busTarget busyState 0xC000#16) = false ∧
    (busTarget busyState 0xC000#16).isIo = false ∧ (after (step busyState) (·.pc)).isSome = true := by decide

/-- `ReadsArePureAndWritesIdempotent`: moves that are no write, no bank select, no load, no construction and no discard. -/
theorem witness_reading_moves : ∀ m ∈ [HostMove.step, .resume, .setFlag .z true],
    ¬ (∃ a v, m = .busWrite a v) ∧ ¬ (∃ r n, m = .selectBank r n) ∧ ¬ (∃ buf, m = .loadRom buf) ∧
    ¬ (∃ cfg, m = .construct cfg) ∧ m ≠ .discard := by simp

/-- The statements about a move on a CPU (`OnlyRomLoadWritesRom`, `ResumeOnUnmappedHaltsAgain`, `LoopStateChangesOnlyByHaltAndResume`,
`StackPointerAndFlagsOnlyByHost`): a session with a CPU before and after a move, changing what each is about. -/
theorem witness_moves :
    (∃ t, ((sessionAfter []).move (.busWrite 0xC000#16 1#8)).2.cpu = some t) ∧
    (∃ s t, (sessionAfter []).cpu = some s ∧ ((sessionAfter []).move .step).2.cpu = some t ∧ t.run ≠ s.run) ∧
    (∃ s t, (sessionAfter [.step]).cpu = some s ∧ ((sessionAfter [.step]).move .resume).2.cpu = some t ∧ t.run ≠ s.run) ∧
    (∃ s t, (sessionAfter [.loadRom [0x7E#8]]).cpu = some s ∧ ((sessionAfter [.loadRom [0x7E#8]]).move .step).2.cpu = some t ∧ t.pc ≠ s.pc) ∧
    (∃ s t, (sessionAfter []).cpu = some s ∧ ((sessionAfter []).move (.set16 .af 0x00F0#16)).2.cpu = some t ∧ t.f ≠ s.f) :=
  ⟨⟨_, rfl⟩, ⟨_, _, rfl, rfl, by decide⟩, ⟨_, _, rfl, rfl, by decide⟩, ⟨_, _, rfl, rfl, by decide⟩, ⟨_, _, rfl, rfl, by decide⟩⟩

/-- `ConstructionIsZeroInitialized`, `RomLoadCopiesBuffer`: a buffer that fits. -/
theorem witness_rom_fits : ([0x7E#8, 0x46#8] : List Byte).length ≤ plainCfg.maxRomSize := by decide

/-- `OversizedRomIsRejected`: a buffer one byte too long, on a session not yet stepped; and one that fits. -/
theorem witness_rom_too_large : plainCfg.maxRomSize < (List.replicate 0x8001 0#8).length ∧
    (sessionAfter []).stepped = false ∧ (sessionAfter []).cpu = some (State.construct plainCfg) := by
  refine ⟨?_, rfl, rfl⟩
  rw [List.length_replicate]
  decide

/-- `RomLoadRefusedAfterStep`: moves that keep the instance. -/
theorem witness_keeping_moves : (sessionAfter []).cpu = some (State.construct plainCfg) ∧
    ∀ m ∈ [HostMove.resume, .step], (∀ cfg, m ≠ .construct cfg) ∧ m ≠ .discard := ⟨rfl, by simp⟩

/-- `DiscardEndsTheInstance`: a session with a CPU and a move that is no construction. -/
theorem witness_discard : (sessionAfter []).cpu = some (State.construct plainCfg) ∧ ∀ cfg, HostMove.step ≠ .construct cfg :=
  ⟨rfl, by simp⟩

/-- `LoadFrame`, `LoadsOfAddressHalvesComplete`, `NoLoadOrFetchHazard`: a load that completes, another after it, and writable bytes at HL and PC. -/
theorem witness_load : (∃ t u, exec .ldHHl busyState = .next t ∧ exec .ldAHl t = .next u) ∧
    (∃ t, exec .ldLHl busyState = .next t) ∧ (Instr.ldHHl, Reg8.h) ∈
      [(Instr.ldBHl, Reg8.b), (.ldCHl, .c), (.ldDHl, .d), (.ldEHl, .e), (.ldHHl, .h), (.ldLHl, .l), (.ldAHl, .a)] ∧
    (busTarget busyState (get16 busyState .hl)).writable = true ∧
    (busTarget { busyState with pc := 0xC000#16 } 0xC000#16).writable = true ∧ Reg8.a ≠ Reg8.h :=
  ⟨⟨_, _, rfl, rfl⟩, ⟨_, rfl⟩, by simp, by decide, by decide, by decide⟩

/-- `UnmappedOpcodesTakeTheHalt`: one of the seven. -/
theorem witness_unmapped_row : Instr.unimpl76 ∈ [Instr.unimplBlk00 0#8, .unimplBlk10 0#8, .unimplBlk11 0#8, .unimplBlk01Src0 0#8,
    .unimplBlk01Src4 0#8, .unimplBlk01Src7 0#8, .unimpl76] := by decide

/-- `TrapEntrySavesNothing`, `UnmappedOpcodeReadsOneByte`, `StepAccessesInOrder`: a Running state at an unmapped byte, and at a mapped one. -/
theorem witness_unmapped_step : (startS 0x76#8).run = .running ∧
    decodeAt (startS 0x76#8) (startS 0x76#8).pc = .unimplementedOpcode 0x76#8 0x0150#16 ∧
    isMapped (busRead (startS 0x76#8) 0x0150#16) = false ∧ isMapped (busRead (startS 0x7E#8) 0x0150#16) = true := by decide

/-- `ResumeOnUnmappedHaltsAgain`: the halting step, and a later Running state at the same byte. -/
theorem witness_halt_and_resume : ∃ t, step (startS 0x76#8) = .next t ∧ (startS 0x76#8).run = .running ∧
    stepResult (startS 0x76#8) = .err (.unimplementedOpcode (busRead (startS 0x76#8) (startS 0x76#8).pc) (startS 0x76#8).pc) ∧
    (resume t).run = .running ∧ (resume t).pc = t.pc ∧ busRead (resume t) (resume t).pc = busRead (startS 0x76#8) 0x0150#16 :=
  ⟨_, rfl, by decide, by decide, by decide, by decide, by decide⟩

/-- `HaltDoesNotNest`, `HaltedStepIsIdle`: a Halted CPU and moves without a resume. -/
theorem witness_halted : ∃ s, (sessionAfter [.step]).cpu = some s ∧ s.run = .halted ∧
    [HostMove.step, .busWrite 0xC000#16 1#8, .setFlag .z true].all HostMove.keepsHalt = true := ⟨_, rfl, by decide, by decide⟩

/-- `StepRunsDecodedInstruction`: a Running state and the instruction at its PC. -/
theorem witness_decoded : (startS 0x7E#8).run = .running ∧ decode [busRead (startS 0x7E#8) (startS 0x7E#8).pc] = .ok (.ldAHl, []) :=
  ⟨rfl, rfl⟩

/-- `StepResultMatchesStateChange`, `CgbModeDoesNotReachTheStep`, `StepReadsNeitherFlagsNorStackPointer`, `StepKeepsInvariant`: a step from a
state that meets the invariant, and one from a PC below 0xFFFF. -/
theorem witness_step : busyState.Inv ∧ (∃ t, step busyState = .next t) ∧ busyState.pc.toNat < 0xFFFF := ⟨by decide, ⟨_, rfl⟩, by decide⟩

/-- `StepNeverStops`: a reported error. -/
theorem witness_reported_error : ∃ r, stepResult (startS 0x76#8) = .err r := ⟨_, rfl⟩

/-- `DecodeEncodeRoundTrip`: well-formed instructions of a load row and of an unmapped row. -/
theorem witness_well_formed : Instr.wf .ldAHl = true ∧ Instr.wf (.unimplBlk11 0xFF#8) = true := by decide

/-- `ReachableStatesMeetInvariant`, `ReachablePcAtMostUnusable`: a reachable state past its first step. -/
theorem witness_reachable : Reachable { withRom [0x7E#8] with a := 0x7E#8, pc := 0x0001#16 } :=
  ⟨[.construct plainCfg, .loadRom [0x7E#8], .step], by decide, by decide⟩

/-- `EveryRunHalts`: a Running CPU two bytes before 0xFEA0 and a sequence with as many steps as the bound asks, other moves between. -/
theorem witness_every_run : stepsToHalt { withRom [] with pc := 0xFE9E#16 } ≤
      stepCount [.step, .busWrite 0xFE9F#16 0x7E#8, .step, .step] ∧ (withRom []).run = .running ∧
    [HostMove.step, .busWrite 0xFE9F#16 0x7E#8, .step, .step].all HostMove.keepsHalt = true := by decide

/-- `InterruptEnableIsInert`: steps without a read of 0xFFFF: a load with HL elsewhere, an unmapped byte and a Halted state with HL there. -/
theorem witness_ie : (∃ t, step busyState = .next t) ∧
    [busyState, { withRom [] with h := 0xFF#8, l := 0xFF#8 }, { withRom [] with h := 0xFF#8, l := 0xFF#8, run := .halted }].all
      (fun s => !(stepAccesses s).contains (.read 0xFFFF#16)) = true := ⟨⟨_, rfl⟩, by decide⟩

end Sys2Proof.Tests
end

section
/-! PROOF. Register codes, flag bits and pairs as vectors of bits: the facts the register-file statements of 10_state.md rest on. -/

namespace Sys2Proof.Machine

/-! ### Register codes (R26) -/

theorem get8_code (s : State) {c : Code} {r : Reg8} (h : regOfCode c = some r) : get8 s (.code c) = .ok (readReg s r) := by
  simp [get8, h]

theorem set8_code (s : State) (v : Byte) {c : Code} {r : Reg8} (h : regOfCode c = some r) :
    set8 s v (.code c) = .ok (writeReg s v r) := by
  simp [set8, h]

theorem regOfCode_of_ne {c : Code} (h : c ≠ 0b110#3) : ∃ r, regOfCode c = some r :=
  Option.ne_none_iff_exists'.mp (mt (regOfCode_eq_none c).mp h)

/-- A write through a code is not seen through any other code, the error of code 110 included. -/
theorem get8_writeReg_ne (s : State) (v : Byte) {c c' : Code} {r : Reg8} (h : regOfCode c = some r) (hne : c' ≠ c) :
    get8 (writeReg s v r) (.code c') = get8 s (.code c') := by
  cases h' : regOfCode c' with
  | none => simp [get8, h']
  | some q =>
    have hq : q ≠ r := by
      rintro rfl
      exact hne ((codeOfReg_of_regOfCode c' q h').symm.trans (codeOfReg_of_regOfCode c q h))
    rw [get8_code _ h', get8_code _ h', readReg_writeReg_ne s v hq]

/-- A register write changes general registers only (R21). -/
theorem writeReg_frame (s : State) (v : Byte) (r : Reg8) :
    writeReg s v r = { s with
      a := (writeReg s v r).a, b := (writeReg s v r).b, c := (writeReg s v r).c, d := (writeReg s v r).d,
      e := (writeReg s v r).e, h := (writeReg s v r).h, l := (writeReg s v r).l } := by
  cases r <;> rfl

/-! ### Descriptors (30_encoding.md R119, R120) -/

/-- An instruction is one of the seven loads, with its register as destination, or its descriptor carries its opcode byte. -/
theorem descriptor_cases (i : Instr) (cycles : Nat) (pc : Word) :
    (∃ r, i = loadOfReg r ∧ i.descriptor cycles pc = .op ⟨.load8, .reg (codeOfReg r), .indirectHl, cycles, 1⟩) ∨
    ((∀ r, i ≠ loadOfReg r) ∧ i.descriptor cycles pc = .unimplementedOpcode (encodeOpcode i) pc) := by
  cases i
  case ldBHl => exact .inl ⟨.b, rfl, rfl⟩
  case ldCHl => exact .inl ⟨.c, rfl, rfl⟩
  case ldDHl => exact .inl ⟨.d, rfl, rfl⟩
  case ldEHl => exact .inl ⟨.e, rfl, rfl⟩
  case ldHHl => exact .inl ⟨.h, rfl, rfl⟩
  case ldLHl => exact .inl ⟨.l, rfl, rfl⟩
  case ldAHl => exact .inl ⟨.a, rfl, rfl⟩
  all_goals exact .inr ⟨fun r => by cases r <;> simp [loadOfReg], rfl⟩

theorem codeOfReg_ne_memory_code (r : Reg8) : codeOfReg r ≠ 0b110#3 := by cases r <;> decide

theorem encodeOpcode_decodeOpcode : ∀ opcode : Byte, encodeOpcode (decodeOpcode opcode) = opcode := by decide

/-- The descriptor of an unmapped byte at `pc` carries that byte (R120). -/
theorem decodeAt_of_not_load {s : State} {pc : Word} (h : ∀ r, decodeOpcode (busRead s pc) ≠ loadOfReg r) :
    decodeAt s pc = .unimplementedOpcode (busRead s pc) pc := by
  rcases descriptor_cases (decodeOpcode (busRead s pc)) s.cfg.cyclesLdRHl pc with ⟨r, hr, -⟩ | ⟨-, hd⟩
  · exact absurd hr (h r)
  · rw [decodeAt, hd, encodeOpcode_decodeOpcode]

/-! ### Flag bits (R22, R23, R30) -/

/-- The position of a flag in F (R23). -/
def flagBit : Flag → Nat
  | .z => 7
  | .n => 6
  | .h => 5
  | .c => 4

theorem flagMask_eq_twoPow (flag : Flag) : flagMask flag = BitVec.twoPow 8 (flagBit flag) := by cases flag <;> rfl

theorem flagBit_lt (flag : Flag) : flagBit flag < 8 := by cases flag <;> decide

theorem four_le_flagBit (flag : Flag) : 4 ≤ flagBit flag := by cases flag <;> decide

theorem flagBit_inj {p q : Flag} (h : flagBit p = flagBit q) : p = q := by
  revert h
  cases p <;> cases q <;> decide

theorem getFlag_eq_getLsbD (s : State) (flag : Flag) : getFlag s flag = s.f.getLsbD (flagBit flag) := by
  have hmask : BitVec.twoPow 8 (flagBit flag) ≠ 0#8 := by cases flag <;> decide
  rw [getFlag, flagMask_eq_twoPow, BitVec.and_twoPow]
  cases s.f.getLsbD (flagBit flag) <;> simp [hmask]

/-- A flag write sets its own bit of F and leaves the other bits (R30). -/
theorem getLsbD_setFlag_f (s : State) (flag : Flag) (on : Bool) (i : Nat) :
    (setFlag s flag on).f.getLsbD i = if i = flagBit flag then on else s.f.getLsbD i := by
  have hlt := flagBit_lt flag
  rw [setFlag_f, flagMask_eq_twoPow]
  by_cases hi : i = flagBit flag
  · cases on <;> simp [hi, hlt]
  · by_cases h8 : i < 8
    · cases on <;> simp [hi, h8]
    · simp [hi, BitVec.getLsbD_of_ge _ i (Nat.le_of_not_lt h8)]

/-- No flag stands in the low nibble (R22, R23). -/
theorem setFlag_lowNibble (s : State) (flag : Flag) (on : Bool) :
    (setFlag s flag on).f &&& 0x0F#8 = s.f &&& 0x0F#8 := by
  have hmask : flagMask flag &&& 0x0F#8 = 0#8 ∧ ~~~ flagMask flag &&& 0x0F#8 = 0x0F#8 := by cases flag <;> decide
  rw [setFlag_f, BitVec.and_or_distrib_right, BitVec.and_assoc, hmask.2]
  cases on <;> simp [hmask.1]

theorem maskF_lowNibble (v : Byte) : maskF v &&& 0x0F#8 = 0#8 := by
  simp [maskF, BitVec.and_assoc]

/-! ### Pairs (R24, R28, R29) -/

theorem pairWord_eq_append (hi lo : Byte) : pairWord hi lo = hi ++ lo := by
  apply BitVec.eq_of_getLsbD_eq
  intro i hi16
  rw [getLsbD_pairWord hi lo hi16, BitVec.getLsbD_append]

theorem toNat_pairWord (hi lo : Byte) : (pairWord hi lo).toNat = hi.toNat * 256 + lo.toNat := by
  rw [pairWord_eq_append, BitVec.toNat_append, ← Nat.shiftLeft_add_eq_or_of_lt lo.isLt, Nat.shiftLeft_eq]

@[simp] theorem pairWord_hiByte_loByte (w : Word) : pairWord (hiByte w) (loByte w) = w := by
  rw [pairWord_eq_append]
  exact (BitVec.extractLsb'_append_extractLsb'_eq_extractLsb' (start₁ := 0) (len₁ := 8) rfl).trans BitVec.extractLsb'_eq_self

/-- Masking the low byte of a pair masks the pair (R29). -/
theorem pairWord_maskF (hi lo : Byte) : pairWord hi (maskF lo) = pairWord hi lo &&& 0xFFF0#16 := by
  have hmask : (0xFFF0#16 : Word) = 0xFF#8 ++ 0xF0#8 := rfl
  have hhi : hi &&& 0xFF#8 = hi := BitVec.and_allOnes
  rw [pairWord_eq_append, pairWord_eq_append, maskF, hmask, BitVec.and_append, hhi]

theorem get16_set16_af (s : State) (w : Word) : get16 (set16 s w .af) .af = w &&& 0xFFF0#16 :=
  (pairWord_maskF (hiByte w) (loByte w)).trans (by rw [pairWord_hiByte_loByte])

/-- Every pair but AF reads back as written (R28). -/
theorem get16_set16 (s : State) (w : Word) {p : Pair} (h : p ≠ .af) : get16 (set16 s w p) p = w := by
  cases p
  case af => exact absurd rfl h
  all_goals exact pairWord_hiByte_loByte w

end Sys2Proof.Machine
end

section
/-! PROOF. What steps and host moves keep of the state: the invariant of 10_state.md R42, an induction over the moves that reach a
state, and the fields that only some moves touch. -/

namespace Sys2Proof.Machine

/-! ### The invariant under each operation (R42) -/

theorem construct_inv {cfg : Config} (h : cfg.wf = true) : (State.construct cfg).Inv := by
  have hcfg := h
  simp only [Config.wf, Bool.and_eq_true, decide_eq_true_eq] at h
  obtain ⟨⟨⟨⟨-, hrom⟩, hvram⟩, hwram1⟩, hwram7⟩ := h
  exact ⟨BitVec.zero_and, ⟨hrom, hvram, hwram1, hwram7⟩, construct_storesCanonical cfg, hcfg⟩

theorem State.Inv.two_le_romBankCount {s : State} (h : s.Inv) : 2 ≤ s.cfg.romBankCount := by
  obtain ⟨-, -, -, hcfg⟩ := h
  simp only [Config.wf, Bool.and_eq_true, decide_eq_true_eq] at hcfg
  obtain ⟨⟨⟨⟨hcount, -⟩, -⟩, -⟩, -⟩ := hcfg
  exact hcount

theorem State.Inv.lowNibble {s : State} (h : s.Inv) : s.f &&& 0x0F#8 = 0#8 := h.1

/-- The invariant looks at the low nibble of F, the selectors, the stores and the configuration only. -/
theorem State.Inv.congr {s t : State} (h : s.Inv) (hf : t.f &&& 0x0F#8 = 0#8)
    (hb : t.romBank = s.romBank ∧ t.vramBank = s.vramBank ∧ t.wramBank = s.wramBank)
    (hs : t.rom = s.rom ∧ t.vram = s.vram ∧ t.extram = s.extram ∧ t.wram = s.wram ∧ t.oam = s.oam ∧ t.hram = s.hram)
    (hc : t.cfg = s.cfg) : t.Inv := by
  obtain ⟨-, hbanks, hstores, hcfg⟩ := h
  obtain ⟨h1, h2, h3⟩ := hb
  obtain ⟨k1, k2, k3, k4, k5, k6⟩ := hs
  refine ⟨hf, ?_, ?_, by rw [hc]; exact hcfg⟩
  · rw [State.BanksLegal, h1, h2, h3, hc]
    exact hbanks
  · rw [State.StoresCanonical, k1, k2, k3, k4, k5, k6, hc]
    exact hstores

theorem writeReg_inv {s : State} (h : s.Inv) (v : Byte) (r : Reg8) : (writeReg s v r).Inv :=
  h.congr (by simpa using h.lowNibble) (by simp) (by simp) (by simp)

theorem advancePc_inv {s : State} (h : s.Inv) (n : Nat) : (advancePc n s).Inv := h

theorem enterHalted_inv {s : State} (h : s.Inv) : (enterHalted s).Inv := h

theorem resume_inv {s : State} (h : s.Inv) : (resume s).Inv := h

theorem writeF_inv {s : State} (h : s.Inv) (v : Byte) : (writeF s v).Inv :=
  h.congr (maskF_lowNibble v) (by simp) (by simp) (by simp)

theorem setFlag_inv {s : State} (h : s.Inv) (flag : Flag) (on : Bool) : (setFlag s flag on).Inv :=
  h.congr ((setFlag_lowNibble s flag on).trans h.lowNibble) (by simp) (by simp) (by simp)

theorem set16_inv {s : State} (h : s.Inv) (w : Word) (p : Pair) : (set16 s w p).Inv := by
  refine h.congr ?_ (by simp) (by simp) (by simp)
  cases p
  case af => exact maskF_lowNibble (loByte w)
  all_goals exact h.lowNibble

theorem set8_inv {s t : State} (h : s.Inv) {v : Byte} {sel : RegSel} (ht : set8 s v sel = .ok t) : t.Inv := by
  rcases set8_ok_cases ht with ⟨-, rfl⟩ | ⟨-, r, -, -, rfl⟩
  · exact writeF_inv h v
  · exact writeReg_inv h v r

theorem busWrite_inv {s : State} (h : s.Inv) (addr : Word) (v : Byte) : (busWrite s addr v).Inv := by
  have hcount := h.two_le_romBankCount
  obtain ⟨hf, hbanks, hstores, hcfg⟩ := h
  refine ⟨by simpa using hf, ?_, busWrite_storesCanonical hstores hbanks hcount addr v, by simpa using hcfg⟩
  simpa [State.BanksLegal] using hbanks

theorem loadRom_inv {s t : State} (h : s.Inv) {buf : List Byte} (ht : loadRom s buf = .next t) : t.Inv := by
  obtain ⟨hf, hbanks, hstores, hcfg⟩ := h
  have hstores' := loadRom_storesCanonical hstores ht
  obtain ⟨-, rfl⟩ := loadRom_next ht
  exact ⟨hf, hbanks, hstores', hcfg⟩

theorem selectBank_inv {s t : State} (h : s.Inv) {region : Region} {bank : Nat} (ht : selectBank s region bank = .next t) :
    t.Inv := by
  obtain ⟨hf, ⟨hrom, hvram, hwram⟩, hstores, hcfg⟩ := h
  rcases selectBank_next_cases ht with ⟨-, hn, rfl⟩ | ⟨-, -, hn, rfl⟩ | ⟨-, -, hn, rfl⟩
  · exact ⟨hf, ⟨hn, hvram, hwram⟩, hstores, hcfg⟩
  · exact ⟨hf, ⟨hrom, hn, hwram⟩, hstores, hcfg⟩
  · exact ⟨hf, ⟨hrom, hvram, hn⟩, hstores, hcfg⟩

theorem step_inv {s t : State} (h : s.Inv) (ht : step s = .next t) : t.Inv := by
  rcases step_next_cases ht with rfl | ⟨r, rfl⟩ | rfl
  · exact h
  · exact advancePc_inv (writeReg_inv h _ r) 1
  · exact enterHalted_inv h

theorem move_inv (x : Session) {s t : State} {m : HostMove} (hx : x.cpu = some s) (h : s.Inv)
    (hm : ∀ cfg, m ≠ .construct cfg) (ht : (x.move m).2.cpu = some t) : t.Inv := by
  rcases move_cases x hx ht with ⟨cfg, e, -⟩ | rfl | ⟨buf, -, e⟩ | ⟨-, e⟩ | ⟨-, rfl⟩ | ⟨addr, v, -, rfl⟩ |
    ⟨sel, v, -, e⟩ | ⟨p, w, -, rfl⟩ | ⟨flag, on, -, rfl⟩ | ⟨r, n, -, e⟩
  · exact absurd e (hm cfg)
  · exact h
  · exact loadRom_inv h e
  · exact step_inv h e
  · exact resume_inv h
  · exact busWrite_inv h addr v
  · exact set8_inv h e
  · exact set16_inv h w p
  · exact setFlag_inv h flag on
  · exact selectBank_inv h e

/-! ### Induction over the moves that reach a state -/

/-- A construction gives its own CPU whatever the session held (R248, log entry 28). -/
theorem move_construct_cpu (x : Session) (cfg : Config) : (x.move (.construct cfg)).2.cpu = some (State.construct cfg) := by
  cases h : x.cpu <;> simp [Session.move, h, Session.onCpu]

/-- Without a CPU, no move but construction gives one (R248). -/
theorem move_cpu_none (x : Session) {m : HostMove} (hx : x.cpu = none) (hm : ∀ cfg, m ≠ .construct cfg) :
    (x.move m).2.cpu = none := by
  cases m
  case construct cfg => exact absurd rfl (hm cfg)
  all_goals simp [Session.move, hx]

section Induction

variable {P : State → Prop} (hconstruct : ∀ cfg : Config, cfg.wf = true → P (State.construct cfg))
  (hmove : ∀ (x : Session) (s t : State) (m : HostMove), x.cpu = some s → P s → (∀ cfg, m ≠ .construct cfg) →
    (x.move m).2.cpu = some t → P t)

include hconstruct hmove

/-- One legal move of a session whose CPU, if it holds one, has the property. -/
theorem move_induction {x : Session} {m : HostMove} (hx : ∀ s, x.cpu = some s → P s) (hm : m.legal = true) :
    ∀ t, (x.move m).2.cpu = some t → P t := by
  intro t ht
  by_cases hc : ∃ cfg, m = .construct cfg
  · obtain ⟨cfg, rfl⟩ := hc
    rw [move_construct_cpu, Option.some.injEq] at ht
    exact ht ▸ hconstruct cfg hm
  · replace hc : ∀ cfg, m ≠ .construct cfg := fun cfg e => hc ⟨cfg, e⟩
    cases hs : x.cpu with
    | none => simp [move_cpu_none x hs hc] at ht
    | some s => exact hmove x s t m hs (hx s hs) hc ht

theorem after_induction (ms : List HostMove) : ∀ x : Session, (∀ s, x.cpu = some s → P s) → ms.all HostMove.legal = true →
    ∀ t, (x.after ms).cpu = some t → P t := by
  induction ms with
  | nil => exact fun x hx _ => hx
  | cons m ms ih =>
    intro x hx hms
    rw [List.all_cons, Bool.and_eq_true] at hms
    exact ih (x.move m).2 (move_induction hconstruct hmove hx hms.1) hms.2

/-- What legal construction gives and every move on a CPU keeps holds of every reachable state. -/
theorem Reachable.induction {s : State} (h : Reachable s) : P s := by
  obtain ⟨ms, hms, hs⟩ := h
  exact after_induction hconstruct hmove ms Session.start (fun _ e => by cases e) hms s hs

end Induction

/-! ### The fields that only some moves touch (R23, R31, R33, R34) -/

theorem set8_frame {s t : State} {v : Byte} {sel : RegSel} (h : set8 s v sel = .ok t) :
    t.pc = s.pc ∧ t.sp = s.sp ∧ t.run = s.run := by
  rcases set8_ok_cases h with ⟨-, rfl⟩ | ⟨-, r, -, -, rfl⟩ <;> simp

theorem selectBank_frame {s t : State} {region : Region} {bank : Nat} (h : selectBank s region bank = .next t) :
    t.f = s.f ∧ t.pc = s.pc ∧ t.sp = s.sp ∧ t.run = s.run := by
  rcases selectBank_next_cases h with ⟨-, -, rfl⟩ | ⟨-, -, -, rfl⟩ | ⟨-, -, -, rfl⟩ <;> exact ⟨rfl, rfl, rfl, rfl⟩

theorem loadRom_frame {s t : State} {buf : List Byte} (h : loadRom s buf = .next t) :
    t.f = s.f ∧ t.pc = s.pc ∧ t.sp = s.sp ∧ t.run = s.run := by
  obtain ⟨-, rfl⟩ := loadRom_next h
  exact ⟨rfl, rfl, rfl, rfl⟩

theorem step_frame {s t : State} (h : step s = .next t) : t.f = s.f ∧ t.sp = s.sp := by
  rcases step_next_cases h with rfl | ⟨r, rfl⟩ | rfl <;> simp

/-- A move on a CPU steps it, resumes it, or leaves PC, SP and the loop state alone. -/
theorem move_steps_resumes_or_keeps (x : Session) {s t : State} {m : HostMove} (hx : x.cpu = some s)
    (ht : (x.move m).2.cpu = some t) (hm : ∀ cfg, m ≠ .construct cfg) :
    (m = .step ∧ step s = .next t) ∨ (m = .resume ∧ t = resume s) ∨ (t.pc = s.pc ∧ t.sp = s.sp ∧ t.run = s.run) := by
  rcases move_cases x hx ht with ⟨cfg, e, -⟩ | rfl | ⟨buf, -, e⟩ | h | h | ⟨addr, v, -, rfl⟩ | ⟨sel, v, -, e⟩ |
    ⟨p, w, -, rfl⟩ | ⟨flag, on, -, rfl⟩ | ⟨r, n, -, e⟩
  · exact absurd e (hm cfg)
  · exact .inr (.inr ⟨rfl, rfl, rfl⟩)
  · exact .inr (.inr (loadRom_frame e).2)
  · exact .inl h
  · exact .inr (.inl h)
  · exact .inr (.inr (by simp))
  · exact .inr (.inr (set8_frame e))
  · exact .inr (.inr (by simp))
  · exact .inr (.inr (by simp))
  · exact .inr (.inr (selectBank_frame e).2)

/-- A move that changes F writes F, AF or a flag (R23). -/
theorem move_writes_f (x : Session) {s t : State} {m : HostMove} (hx : x.cpu = some s) (ht : (x.move m).2.cpu = some t)
    (hm : ∀ cfg, m ≠ .construct cfg) (hf : t.f ≠ s.f) :
    (∃ v, m = .set8 .fCode v) ∨ (∃ w, m = .set16 .af w) ∨ (∃ flag on, m = .setFlag flag on) := by
  rcases move_cases x hx ht with ⟨cfg, e, -⟩ | rfl | ⟨buf, -, e⟩ | ⟨-, e⟩ | ⟨-, rfl⟩ | ⟨addr, v, -, rfl⟩ |
    ⟨sel, v, rfl, e⟩ | ⟨p, w, rfl, rfl⟩ | ⟨flag, on, rfl, rfl⟩ | ⟨r, n, -, e⟩
  · exact absurd e (hm cfg)
  · exact absurd rfl hf
  · exact absurd (loadRom_frame e).1 hf
  · exact absurd (step_frame e).1 hf
  · exact absurd rfl hf
  · exact absurd (busWrite_f s addr v) hf
  · rcases set8_ok_cases e with ⟨rfl, -⟩ | ⟨-, r, -, -, rfl⟩
    · exact .inl ⟨v, rfl⟩
    · exact absurd (writeReg_f s v r) hf
  · cases p
    case af => exact .inr (.inl ⟨w, rfl⟩)
    all_goals exact absurd rfl hf
  · exact .inr (.inr ⟨flag, on, rfl⟩)
  · exact absurd (selectBank_frame e).1 hf

/-- A step that changes the loop state halts a Running core on a byte that is no load (R34, D4). -/
theorem step_run_ne {s t : State} (ht : step s = .next t) (hne : t.run ≠ s.run) :
    s.run = .running ∧ t.run = .halted ∧ ∀ r, fetchInstr s ≠ loadOfReg r := by
  rcases step_cases s with ⟨-, e⟩ | ⟨-, r, -, e⟩ | ⟨hrun, hi, e⟩ <;> rw [e] at ht <;> cases ht
  · exact absurd rfl hne
  · exact absurd (by simp) hne
  · exact ⟨hrun, rfl, hi⟩

end Sys2Proof.Machine
end

section
/-! PROOF. What a step, its result and its accesses depend on (10_state.md R36, R41): two runs of one step that differ in a field the step
does not read. -/

namespace Sys2Proof.Machine

/-! ### One step by the instruction at PC -/

theorem step_of_halted {s : State} (h : s.run = .halted) : step s = .next s := by
  simp [step, h]

theorem step_of_load {s : State} {r : Reg8} (h : s.run = .running) (hi : fetchInstr s = loadOfReg r) :
    step s = .next (advancePc 1 (writeReg s (readIndirectHl s) r)) := by
  simp [step, h, hi, exec_loadOfReg]

theorem step_of_not_load {s : State} (h : s.run = .running) (hi : ∀ r, fetchInstr s ≠ loadOfReg r) :
    step s = .next (enterHalted s) := by
  rcases exec_cases (fetchInstr s) s with ⟨r, hr, -⟩ | ⟨-, e⟩
  · exact absurd hr (hi r)
  · simp [step, h, e]

/-- A change `u` of the state that the fetch and a load's read do not see, and that the two effects of a step commute with, commutes
with the step. -/
theorem step_commutes (u : State → State) {s t : State} (hrun : (u s).run = s.run)
    (hfetch : s.run = .running → fetchInstr (u s) = fetchInstr s)
    (hread : ∀ r, s.run = .running → fetchInstr s = loadOfReg r → readIndirectHl (u s) = readIndirectHl s)
    (hload : ∀ v r, advancePc 1 (writeReg (u s) v r) = u (advancePc 1 (writeReg s v r)))
    (hhalt : enterHalted (u s) = u (enterHalted s)) (h : step s = .next t) : step (u s) = .next (u t) := by
  rcases step_cases s with ⟨hr, e⟩ | ⟨hr, r, hi, e⟩ | ⟨hr, hi, e⟩ <;> rw [e] at h <;> cases h
  · exact step_of_halted (hrun.trans hr)
  · rw [step_of_load (hrun.trans hr) ((hfetch hr).trans hi), hread r hr hi, hload]
  · rw [step_of_not_load (hrun.trans hr) (by rwa [hfetch hr]), hhalt]

/-! ### Results and accesses -/

theorem execResult_congr {s t : State} (i : Instr) (hc : t.cfg.cyclesLdRHl = s.cfg.cyclesLdRHl) (hp : t.pc = s.pc) :
    execResult i t = execResult i s := by
  cases i <;> simp only [execResult, hc, hp]

theorem execResult_ne_idle (i : Instr) (s : State) : execResult i s ≠ .idle := by
  cases i <;> exact StepResult.noConfusion

theorem stepResult_of_running {s : State} (h : s.run = .running) : stepResult s = execResult (fetchInstr s) s := by
  simp [stepResult, h]

theorem stepResult_of_halted {s : State} (h : s.run = .halted) : stepResult s = .idle := by
  simp [stepResult, h]

/-- The result of a step looks at the loop state, the instruction at PC, PC and the cycle parameter only (R147). -/
theorem stepResult_congr {s t : State} (hrun : t.run = s.run) (hfetch : s.run = .running → fetchInstr t = fetchInstr s)
    (hc : t.cfg.cyclesLdRHl = s.cfg.cyclesLdRHl) (hp : t.pc = s.pc) : stepResult t = stepResult s := by
  cases hr : s.run with
  | halted => rw [stepResult_of_halted hr, stepResult_of_halted (hrun.trans hr)]
  | running =>
    rw [stepResult_of_running hr, stepResult_of_running (hrun.trans hr), hfetch hr, execResult_congr _ hc hp]

theorem execAccesses_congr {s t : State} (i : Instr) (ha : addressHl t = addressHl s) :
    execAccesses i t = execAccesses i s := by
  cases i <;> simp only [execAccesses, ha]

theorem execAccesses_loadOfReg (r : Reg8) (s : State) : execAccesses (loadOfReg r) s = [.read (addressHl s)] := by
  cases r <;> rfl

theorem stepAccesses_of_running {s : State} (h : s.run = .running) :
    stepAccesses s = .read s.pc :: execAccesses (fetchInstr s) s := by
  simp [stepAccesses, h]

theorem stepAccesses_of_halted {s : State} (h : s.run = .halted) : stepAccesses s = [] := by
  simp [stepAccesses, h]

/-- The accesses of a step look at the loop state, the instruction at PC, PC and HL only (R148). -/
theorem stepAccesses_congr {s t : State} (hrun : t.run = s.run) (hfetch : s.run = .running → fetchInstr t = fetchInstr s)
    (ha : addressHl t = addressHl s) (hp : t.pc = s.pc) : stepAccesses t = stepAccesses s := by
  cases hr : s.run with
  | halted => rw [stepAccesses_of_halted hr, stepAccesses_of_halted (hrun.trans hr)]
  | running =>
    rw [stepAccesses_of_running hr, stepAccesses_of_running (hrun.trans hr), hfetch hr, hp, execAccesses_congr _ ha]

/-! ### F and SP (R41) -/

/-- The state with F and SP at other values. -/
def withFSp (f : Byte) (sp : Word) (s : State) : State := { s with f := f, sp := sp }

theorem busRead_withFSp (f : Byte) (sp : Word) (s : State) (addr : Word) : busRead (withFSp f sp s) addr = busRead s addr :=
  busRead_congr ⟨rfl, rfl, rfl⟩ ⟨rfl, rfl, rfl, rfl, rfl, rfl⟩ rfl rfl rfl addr

theorem fetchInstr_withFSp (f : Byte) (sp : Word) (s : State) : fetchInstr (withFSp f sp s) = fetchInstr s :=
  congrArg decodeOpcode (busRead_withFSp f sp s s.pc)

theorem step_withFSp {s t : State} (f : Byte) (sp : Word) (h : step s = .next t) :
    step (withFSp f sp s) = .next (withFSp f sp t) :=
  step_commutes (withFSp f sp) rfl (fun _ => fetchInstr_withFSp f sp s)
    (fun _ _ _ => busRead_withFSp f sp s (addressHl s)) (fun _ r => by cases r <;> rfl) rfl h

/-! ### The Interrupt Enable register (R36, D17) -/

/-- The state with another value in the Interrupt Enable register. -/
def withIe (v : Byte) (s : State) : State := { s with ie := v }

theorem ite_fst_ne {c : Prop} [Decidable c] {d e : Region × Nat} {r : Region} (hd : d.1 ≠ r) (he : e.1 ≠ r) :
    (if c then d else e).1 ≠ r := by
  split <;> assumption

theorem decodeNat_fst_ne_ie {n : Nat} (h : n ≤ 0xFFFE) : (decodeNat n).1 ≠ .ie := by
  unfold decodeNat
  rw [if_pos h]
  repeat' apply ite_fst_ne
  all_goals nofun

/-- Only the address 0xFFFF leads to the Interrupt Enable register: no echo address is redirected there (20_memory.md R72, R77). -/
theorem busTarget_eq_ie {s : State} {addr : Word} (h : busTarget s addr = .ie) : addr = 0xFFFF#16 := by
  have hregion : (decodeAddress (redirect addr)).1 = .ie := by
    unfold busTarget at h
    generalize decodeAddress (redirect addr) = d at h ⊢
    obtain ⟨region, offset⟩ := d
    cases region
    case ie => rfl
    case extram => simp only [regionTarget] at h; split at h <;> cases h
    all_goals cases h
  have hlast : 0xFFFE < (redirect addr).toNat := not_le.mp fun hle => decodeNat_fst_ne_ie hle hregion
  have hredirect : redirect addr = 0xFFFF#16 := by bv_omega
  unfold redirect at hredirect
  split at hredirect
  · rename_i hecho
    rw [decodeAddress, decodeNat_fst_echo] at hecho
    bv_omega
  · exact hredirect

theorem busRead_withIe (v : Byte) (s : State) {addr : Word} (h : addr ≠ 0xFFFF#16) :
    busRead (withIe v s) addr = busRead s addr := by
  rw [busRead_eq, busRead_eq, busTarget_congr (s := s) (t := withIe v s) rfl rfl rfl rfl]
  cases hx : busTarget s addr
  case ie => exact absurd (busTarget_eq_ie hx) h
  all_goals rfl

section NoReadOfIe

variable {s : State} (v : Byte) (h : BusAccess.read 0xFFFF#16 ∉ stepAccesses s)

include h

theorem fetchInstr_withIe (hr : s.run = .running) : fetchInstr (withIe v s) = fetchInstr s := by
  rw [stepAccesses_of_running hr, List.mem_cons, not_or] at h
  have hpc : s.pc ≠ 0xFFFF#16 := fun e => h.1 (e ▸ rfl)
  exact congrArg decodeOpcode (busRead_withIe v s hpc)

theorem readIndirectHl_withIe {r : Reg8} (hr : s.run = .running) (hi : fetchInstr s = loadOfReg r) :
    readIndirectHl (withIe v s) = readIndirectHl s := by
  rw [stepAccesses_of_running hr, hi, execAccesses_loadOfReg] at h
  have hhl : addressHl s ≠ 0xFFFF#16 := fun e => h (by simp [e])
  exact busRead_withIe v s hhl

theorem step_withIe {t : State} (ht : step s = .next t) : step (withIe v s) = .next (withIe v t) :=
  step_commutes (withIe v) rfl (fetchInstr_withIe v h) (fun _ => readIndirectHl_withIe v h)
    (fun _ r => by cases r <;> rfl) rfl ht

end NoReadOfIe

end Sys2Proof.Machine
end

section
/-! PROOF. The statements of 10_state.md. -/

namespace Sys2Proof.Machine

/-- Settles O49, through what each of a step's three outcomes does to the invariant. -/
theorem stepKeepsInvariant : Obligations.StepKeepsInvariant :=
  fun _ _ h ht => step_inv h ht

/-- Settles O50, by induction over the moves: legal construction meets the invariant and every move on a CPU keeps it. -/
theorem reachableStatesMeetInvariant : Obligations.ReachableStatesMeetInvariant :=
  fun _ h => h.induction (fun _ hcfg => construct_inv hcfg) (fun x _ _ _ hx hs hm ht => move_inv x hx hs hm ht)

/-- Settles O35, through what a move other than a step and a resume leaves alone. -/
theorem loopStateChangesOnlyByHaltAndResume : Obligations.LoopStateChangesOnlyByHaltAndResume := by
  refine ⟨fun _ => rfl, fun x s t m hx ht hm hne => ?_, fun s run addr v => ⟨?_, busWrite_run s addr v⟩, fun s => ?_⟩
  · rcases move_steps_resumes_or_keeps x hx ht hm with ⟨rfl, hstep⟩ | ⟨rfl, rfl⟩ | ⟨-, -, hrun⟩
    · obtain ⟨hs, ht', hi⟩ := step_run_ne hstep hne
      exact .inl ⟨rfl, hs, ht', decodeAt_of_not_load hi⟩
    · cases hs : s.run with
      | running => exact absurd hs.symm hne
      | halted => exact .inr ⟨rfl, rfl, rfl⟩
    · exact absurd hrun hne
  · exact busRead_congr ⟨rfl, rfl, rfl⟩ ⟨rfl, rfl, rfl, rfl, rfl, rfl⟩ rfl rfl rfl addr
  · refine ⟨stepResult_of_halted, fun hidle => ?_⟩
    cases hs : s.run with
    | halted => rfl
    | running => exact absurd ((stepResult_of_running hs).symm.trans hidle) (execResult_ne_idle _ s)

/-- Settles O53: PC and SP by what a move other than a step and a resume leaves alone, F by the writes that reach it. -/
theorem stackPointerAndFlagsOnlyByHost : Obligations.StackPointerAndFlagsOnlyByHost := by
  intro x s t m hx ht hm
  have hpcsp : t.sp = s.sp ∧ (t.pc ≠ s.pc → m = .step) := by
    rcases move_steps_resumes_or_keeps x hx ht hm with ⟨rfl, hstep⟩ | ⟨-, rfl⟩ | ⟨hpc, hsp, -⟩
    · exact ⟨(step_frame hstep).2, fun _ => rfl⟩
    · exact ⟨rfl, fun hne => absurd rfl hne⟩
    · exact ⟨hsp, fun hne => absurd hpc hne⟩
  exact ⟨hpcsp.1, move_writes_f x hx ht hm, hpcsp.2⟩

/-- Settles O56: neither the fetch nor a load's read reaches `ie` but at 0xFFFF. -/
theorem interruptEnableIsInert : Obligations.InterruptEnableIsInert :=
  fun _ _ v h ht => ⟨step_withIe v h ht, stepResult_congr rfl (fetchInstr_withIe v h) rfl rfl,
    stepAccesses_congr rfl (fetchInstr_withIe v h) rfl rfl⟩

/-- Settles O57: no bus read sees F or SP, and both effects of a step keep them. -/
theorem stepReadsNeitherFlagsNorStackPointer : Obligations.StepReadsNeitherFlagsNorStackPointer :=
  fun s _ f sp ht => ⟨step_withFSp f sp ht, stepResult_congr rfl (fun _ => fetchInstr_withFSp f sp s) rfl rfl⟩

/-- Settles O1: the table row by row; that no code reaches F by what a successful write wrote, and the operands by the cases of a
descriptor. -/
theorem registerCodesSelectRegisters : Obligations.RegisterCodesSelectRegisters := by
  refine ⟨fun s => ⟨rfl, rfl, rfl, rfl, rfl, rfl, rfl, rfl⟩, fun s v => ⟨rfl, rfl, rfl, rfl, rfl, rfl, rfl, rfl⟩, ?_, ?_⟩
  · intro s t c v h
    rcases set8_ok_cases h with ⟨hsel, -⟩ | ⟨-, r, -, -, rfl⟩
    · cases hsel
    · exact writeReg_f s v r
  · intro b cycles pc o h
    rcases descriptor_cases (decodeOpcode b) cycles pc with ⟨r, -, hd⟩ | ⟨-, hd⟩ <;> rw [hd] at h <;> cases h
    exact ⟨fun e => codeOfReg_ne_memory_code r (Operand.reg.inj e), Operand.noConfusion⟩

/-- Settles O2, through the register that the code selects. -/
theorem registerWriteReadsBack : Obligations.RegisterWriteReadsBack := by
  intro s c v hc
  obtain ⟨r, hr⟩ := regOfCode_of_ne hc
  refine ⟨writeReg s v r, set8_code s v hr, ?_, fun c' hne => get8_writeReg_ne s v hr hne, writeReg_frame s v r⟩
  rw [get8_code _ hr, readReg_writeReg_same]

/-- Settles O3: the mask of F, and that no flag stands in the low nibble. -/
theorem flagRegisterLowNibbleZero : Obligations.FlagRegisterLowNibbleZero :=
  ⟨fun _ => rfl, fun s v => ⟨writeF s v, rfl, rfl, rfl, maskF_lowNibble v, rfl⟩,
    fun _ w => ⟨rfl, maskF_lowNibble (loByte w)⟩, fun s flag on h => (setFlag_lowNibble s flag on).trans h, fun _ => rfl⟩

/-- Settles O4, by the value of a composed pair. -/
theorem pairsAreViews : Obligations.PairsAreViews := by
  refine ⟨fun s => ⟨toNat_pairWord s.a s.f, toNat_pairWord s.b s.c, toNat_pairWord s.d s.e, toNat_pairWord s.h s.l⟩, ?_⟩
  intro s t u h l ht hu
  cases ht
  cases hu
  exact toNat_pairWord h l

/-- Settles O5: composition by value, decomposition slot by slot, and the two read back. -/
theorem setPairWritesBothHalves : Obligations.SetPairWritesBothHalves := by
  refine ⟨fun s => ⟨toNat_pairWord s.b s.c, toNat_pairWord s.d s.e, toNat_pairWord s.h s.l, toNat_pairWord s.a s.f⟩,
    fun s w => ⟨rfl, rfl, rfl, rfl⟩, fun s w => ?_⟩
  have haf := get16_set16_af s w
  refine ⟨get16_set16 s w (by decide), get16_set16 s w (by decide), get16_set16 s w (by decide), ?_, ?_⟩
  · rw [haf, BitVec.and_assoc]
    exact BitVec.and_zero
  · rw [haf, BitVec.and_assoc, BitVec.and_self]

/-- Settles O6, bit by bit: each flag is one bit of F, and no two share it. -/
theorem flagWriteTouchesOneBit : Obligations.FlagWriteTouchesOneBit := by
  intro s flag on
  refine ⟨?_, fun other hne => ?_, rfl, setFlag_lowNibble s flag on, rfl,
    getFlag_eq_getLsbD s .z, getFlag_eq_getLsbD s .n, getFlag_eq_getLsbD s .h, getFlag_eq_getLsbD s .c⟩
  · rw [getFlag_eq_getLsbD, getLsbD_setFlag_f, if_pos rfl]
  · rw [getFlag_eq_getLsbD, getLsbD_setFlag_f, if_neg (mt flagBit_inj hne), ← getFlag_eq_getLsbD]

/-- Settles O48, from the bounds a legal configuration gives. -/
theorem constructionMeetsInvariant : Obligations.ConstructionMeetsInvariant :=
  ⟨fun _ h => construct_inv h, construct_inv (cfg := Config.default) rfl⟩

end Sys2Proof.Machine
end

section
/-! PROOF. The address map and the bus: where each address leads, what an access to a target does, and which moves leave the bus as it
was. The facts the statements of 20_memory.md rest on. -/

namespace Sys2Proof.Machine

/-! ### The map (R63 to R65) -/

/-- The last address of a region (R63). -/
def Region.last (r : Region) : Nat := r.first + (r.size - 1)

/-- An address number between the ends of a region is decoded to it (R65). -/
theorem decodeNat_of_region {r : Region} {n : Nat} (hfirst : r.first ≤ n) (hlast : n ≤ r.last) :
    decodeNat n = (r, n - r.first) := by
  unfold decodeNat
  cases r <;> simp only [Region.last, Region.first, Region.size] at hfirst hlast ⊢
  case rom0 => exact if_pos hlast
  case ie =>
    obtain rfl : n = 0xFFFF := by omega
    rfl
  all_goals
    repeat rw [if_neg (by omega)]
    rw [if_pos hlast]

theorem decodeAddress_of_region {r : Region} {addr : Word} (hfirst : r.first ≤ addr.toNat) (hlast : addr.toNat ≤ r.last) :
    decodeAddress addr = (r, addr.toNat - r.first) := decodeNat_of_region hfirst hlast

/-- A 16-bit number lies in the region it is decoded to (R64). -/
theorem decodeNat_region {n : Nat} (h : n < 0x10000) :
    (decodeNat n).1.first ≤ n ∧ n < (decodeNat n).1.first + (decodeNat n).1.size := by
  unfold decodeNat
  repeat' split
  all_goals simp only [Region.first, Region.size]; omega

/-! ### The target of an address (R66 to R77) -/

theorem redirect_of_not_echo {addr : Word} (h : (decodeAddress addr).1 ≠ .echo) : redirect addr = addr := if_neg h

theorem busTarget_of_region (s : State) {r : Region} {addr : Word} (hr : r ≠ .echo) (hfirst : r.first ≤ addr.toNat)
    (hlast : addr.toNat ≤ r.last) : busTarget s addr = regionTarget s r (addr.toNat - r.first) := by
  have hdecode := decodeAddress_of_region hfirst hlast
  rw [busTarget, redirect_of_not_echo (by rwa [hdecode]), hdecode]

/-- An access in a region other than the echo is one to the region's own target. -/
theorem busAccess_of_region (s : State) {r : Region} {addr : Word} (hr : r ≠ .echo) (hfirst : r.first ≤ addr.toNat)
    (hlast : addr.toNat ≤ r.last) :
    busRead s addr = readTarget s (regionTarget s r (addr.toNat - r.first)) ∧
    ∀ v : Byte, busWrite s addr v = writeTarget s v (regionTarget s r (addr.toNat - r.first)) := by
  rw [← busTarget_of_region s hr hfirst hlast]
  exact ⟨rfl, fun _ => rfl⟩

/-! ### The echo of work RAM (R72) -/

theorem toNat_sub_0x2000 {addr : Word} (h : 0x2000 ≤ addr.toNat) : (addr - 0x2000#16).toNat = addr.toNat - 0x2000 := by
  bv_omega

theorem busTarget_sub_bank0 (s : State) {addr : Word} (hfirst : 0xE000 ≤ addr.toNat) (hlast : addr.toNat ≤ 0xEFFF) :
    busTarget s (addr - 0x2000#16) = .wram (addr.toNat - 0xE000) := by
  have hsub := toNat_sub_0x2000 (addr := addr) (by omega)
  rw [busTarget_of_region s (r := .wram0) nofun (by simp only [Region.first]; omega)
    (by simp only [Region.last, Region.first, Region.size]; omega), hsub]
  simp only [regionTarget, Region.first, Nat.sub_sub]

theorem busTarget_sub_bankN (s : State) {addr : Word} (hfirst : 0xF000 ≤ addr.toNat) (hlast : addr.toNat ≤ 0xFDFF) :
    busTarget s (addr - 0x2000#16) = .wram (s.wramBank * 0x1000 + (addr.toNat - 0xF000)) := by
  have hsub := toNat_sub_0x2000 (addr := addr) (by omega)
  rw [busTarget_of_region s (r := .wramN) nofun (by simp only [Region.first]; omega)
    (by simp only [Region.last, Region.first, Region.size]; omega), hsub]
  simp only [regionTarget, Region.first, Nat.sub_sub]

section Echo

variable (s : State) {addr : Word} (hfirst : 0xE000 ≤ addr.toNat) (hlast : addr.toNat ≤ 0xFDFF)

include hfirst hlast

/-- An echo address stands for the one 0x2000 below it. -/
theorem busTarget_echo : busTarget s addr = busTarget s (addr - 0x2000#16) := by
  have hecho : (decodeAddress addr).1 = .echo := (decodeNat_fst_echo _).mpr ⟨hfirst, hlast⟩
  have hredirect : redirect addr = addr - 0x2000#16 := if_pos hecho
  have hbelow : redirect (addr - 0x2000#16) = addr - 0x2000#16 :=
    redirect_of_not_echo (hredirect ▸ redirect_not_echo addr)
  rw [busTarget, busTarget, hredirect, hbelow]

/-- Every echo address leads to a byte of work RAM: of bank 0, or of the first 0xE00 of the selected bank. -/
theorem busTarget_echo_cases :
    (∃ i, i < 0x1000 ∧ busTarget s addr = .wram i) ∨ (∃ i, i < 0xE00 ∧ busTarget s addr = .wram (s.wramBank * 0x1000 + i)) := by
  rw [busTarget_echo s hfirst hlast]
  rcases Nat.lt_or_ge addr.toNat 0xF000 with hlow | hhigh
  · exact .inl ⟨_, by omega, busTarget_sub_bank0 s hfirst (Nat.le_of_lt_succ hlow)⟩
  · exact .inr ⟨_, by omega, busTarget_sub_bankN s hhigh hlast⟩

theorem busTarget_echo_writable : (busTarget s addr).writable = true := by
  rcases busTarget_echo_cases s hfirst hlast with ⟨i, -, he⟩ | ⟨i, -, he⟩ <;> rw [he] <;> rfl

/-- The top 0x200 bytes of the selected bank have no echo. -/
theorem busTarget_ne_echo (hbank : 1 ≤ s.wramBank) {high : Word} (hhigh : 0xDE00 ≤ high.toNat) (htop : high.toNat ≤ 0xDFFF) :
    busTarget s high ≠ busTarget s addr := by
  have hwindow : busTarget s high = .wram (s.wramBank * 0x1000 + (high.toNat - 0xD000)) :=
    busTarget_of_region s (r := .wramN) nofun (Nat.le_trans (by decide) hhigh) htop
  intro heq
  rcases busTarget_echo_cases s hfirst hlast with ⟨i, hi, he⟩ | ⟨i, hi, he⟩ <;>
    rw [hwindow, he, Target.wram.injEq] at heq <;> omega

end Echo

/-! ### Reading and writing a target (R62, R87) -/

theorem readTarget_writeTarget_same {s : State} (hs : s.StoresCanonical) (v : Byte) {x : Target} (h : x.writable = true) :
    readTarget (writeTarget s v x) x = v := by
  obtain ⟨-, ⟨hvram, -⟩, ⟨hextram, -⟩, ⟨hwram, -⟩, ⟨hoam, -⟩, ⟨hhram, -⟩⟩ := hs
  cases x
  case vram i => exact Memory.read_write_same hvram i v
  case extram i => exact Memory.read_write_same hextram i v
  case wram i => exact Memory.read_write_same hwram i v
  case oam i => exact Memory.read_write_same hoam i v
  case hram i => exact Memory.read_write_same hhram i v
  case ie => rfl
  all_goals exact absurd h Bool.false_ne_true

/-- A byte written at any address is read at every address with the same writable target. -/
theorem busRead_busWrite_same {s : State} (hs : s.Inv) {addr addr' : Word} (v : Byte) (heq : busTarget s addr' = busTarget s addr)
    (h : (busTarget s addr).writable = true) : busRead (busWrite s addr v) addr' = v := by
  obtain ⟨-, -, hstores, -⟩ := hs
  rw [busRead_eq, busTarget_busWrite, heq]
  exact readTarget_writeTarget_same hstores v h

/-- A write changes the RAM stores, `ie` and the peripheral's state only. -/
theorem writeTarget_frame (s : State) (v : Byte) (x : Target) :
    writeTarget s v x = { s with
      ioState := (writeTarget s v x).ioState, vram := (writeTarget s v x).vram, extram := (writeTarget s v x).extram,
      wram := (writeTarget s v x).wram, oam := (writeTarget s v x).oam, hram := (writeTarget s v x).hram,
      ie := (writeTarget s v x).ie } := by
  cases x <;> rfl

/-- A write in the I/O window changes the peripheral's state only (R75). -/
theorem writeTarget_of_isIo (s : State) (v : Byte) {x : Target} (h : x.isIo = true) :
    writeTarget s v x = { s with ioState := (writeTarget s v x).ioState } := by
  cases x
  case io => rfl
  all_goals exact absurd h Bool.false_ne_true

theorem isIo_of_ioTakes {s : State} {v : Byte} {x : Target} (h : ioTakes s v x = true) : x.isIo = true := by
  by_contra hio
  rw [ioTakes_of_not_io s v (Bool.eq_false_iff.mpr hio)] at h
  exact Bool.false_ne_true h

theorem Memory.write_write_same {m : Memory} (h : m.wf = true) (i : Nat) (v : Byte) : (m.write i v).write i v = m.write i v := by
  have hwf := Memory.wf_write h i v
  refine Memory.ext_wf (Memory.wf_write hwf i v) hwf fun k => ?_
  by_cases hk : k = i
  · rw [hk, Memory.read_write_same hwf, Memory.read_write_same h]
  · exact Memory.read_write_ne _ v hk

/-- Writing a target twice is writing it once, but where the hook takes the write (R87). -/
theorem writeTarget_idempotent {s : State} (hs : s.StoresCanonical) (v : Byte) {x : Target} (hk : ioTakes s v x = false) :
    writeTarget (writeTarget s v x) v x = writeTarget s v x := by
  obtain ⟨-, ⟨hvram, -⟩, ⟨hextram, -⟩, ⟨hwram, -⟩, ⟨hoam, -⟩, ⟨hhram, -⟩⟩ := hs
  cases x
  case vram i => simp [writeTarget, Memory.write_write_same hvram]
  case extram i => simp [writeTarget, Memory.write_write_same hextram]
  case wram i => simp [writeTarget, Memory.write_write_same hwram]
  case oam i => simp [writeTarget, Memory.write_write_same hoam]
  case hram i => simp [writeTarget, Memory.write_write_same hhram]
  case io offset =>
    have hsame : writeTarget s v (.io offset) = s := writeTarget_discarded s v rfl hk
    rw [hsame, hsame]
  all_goals rfl

/-! ### The I/O hooks (R75, D16) -/

/-- What the `IoRead` hook answers stands in its table. -/
theorem mem_ioRead_of_ioReadAnswer {s : State} {offset : Nat} {v : Byte} (h : ioReadAnswer s offset = some v) :
    ⟨s.ioState, offset, v⟩ ∈ s.cfg.ioRead := by
  obtain ⟨e, hfind, rfl⟩ := Option.map_eq_some_iff.mp h
  have hmatch := List.find?_some hfind
  simp only [Bool.and_eq_true, beq_iff_eq] at hmatch
  obtain ⟨hstate, hoffset⟩ := hmatch
  rw [← hstate, ← hoffset]
  exact List.mem_of_find?_eq_some hfind

/-- What the `IoWrite` hook takes stands in its table. -/
theorem mem_ioWrite_of_ioWriteAnswer {s : State} {offset next : Nat} {v : Byte} (h : ioWriteAnswer s offset v = some next) :
    ⟨s.ioState, offset, v, next⟩ ∈ s.cfg.ioWrite := by
  obtain ⟨e, hfind, rfl⟩ := Option.map_eq_some_iff.mp h
  have hmatch := List.find?_some hfind
  simp only [Bool.and_eq_true, beq_iff_eq] at hmatch
  obtain ⟨⟨hstate, hoffset⟩, hvalue⟩ := hmatch
  rw [← hstate, ← hoffset, ← hvalue]
  exact List.mem_of_find?_eq_some hfind

theorem ioReadAnswer_eq_none {s : State} {offset : Nat} (h : ∀ v : Byte, ⟨s.ioState, offset, v⟩ ∉ s.cfg.ioRead) :
    ioReadAnswer s offset = none :=
  Option.eq_none_iff_forall_ne_some.mpr fun v hv => h v (mem_ioRead_of_ioReadAnswer hv)

theorem ioWriteAnswer_eq_none {s : State} {offset : Nat} {v : Byte}
    (h : ∀ next : Nat, ⟨s.ioState, offset, v, next⟩ ∉ s.cfg.ioWrite) : ioWriteAnswer s offset v = none :=
  Option.eq_none_iff_forall_ne_some.mpr fun next hn => h next (mem_ioWrite_of_ioWriteAnswer hn)

theorem busWriteResult_declined {s : State} {addr : Word} {offset : Nat} {v : Byte} (hx : busTarget s addr = .io offset)
    (h : ioWriteAnswer s offset v = none) : busWriteResult s addr v = .done := by
  simp [busWriteResult, hx, h]

theorem busWriteResult_taken {s : State} {addr : Word} {offset next : Nat} {v : Byte} (hx : busTarget s addr = .io offset)
    (h : ioWriteAnswer s offset v = some next) : busWriteResult s addr v = .ioTaken offset v := by
  simp [busWriteResult, hx, h]

/-! ### States the bus cannot tell apart -/

/-- `t` differs from `s` in the registers, PC, SP and the loop state only: selectors, stores, `ie`, the peripheral's state and the
parameters are the same. -/
def State.SameBus (s t : State) : Prop :=
  t = { s with a := t.a, f := t.f, b := t.b, c := t.c, d := t.d, e := t.e, h := t.h, l := t.l, pc := t.pc, sp := t.sp, run := t.run }

theorem State.SameBus.rom {s t : State} (h : s.SameBus t) : t.rom = s.rom := by rw [h]

theorem State.SameBus.readTarget {s t : State} (h : s.SameBus t) (x : Target) : readTarget t x = readTarget s x := by
  rw [h]
  cases x <;> rfl

theorem State.SameBus.busTarget {s t : State} (h : s.SameBus t) (addr : Word) : busTarget t addr = busTarget s addr := by
  rw [h]
  exact busTarget_congr rfl rfl rfl rfl addr

theorem State.SameBus.busRead {s t : State} (h : s.SameBus t) (addr : Word) : busRead t addr = busRead s addr := by
  rw [busRead_eq, busRead_eq, h.busTarget, h.readTarget]

theorem writeReg_sameBus (s : State) (v : Byte) (r : Reg8) : s.SameBus (writeReg s v r) := by cases r <;> rfl

theorem set16_sameBus (s : State) (w : Word) (p : Pair) : s.SameBus (set16 s w p) := by cases p <;> rfl

theorem set8_sameBus {s t : State} {v : Byte} {sel : RegSel} (h : set8 s v sel = .ok t) : s.SameBus t := by
  rcases set8_ok_cases h with ⟨-, rfl⟩ | ⟨-, r, -, -, rfl⟩
  · rfl
  · exact writeReg_sameBus s v r

theorem step_sameBus {s t : State} (h : step s = .next t) : s.SameBus t := by
  rcases step_next_cases h with rfl | ⟨r, rfl⟩ | rfl
  · rfl
  · cases r <;> rfl
  · rfl

/-- No step writes on the bus (R148). -/
theorem write_notMem_stepAccesses (s : State) (addr : Word) (v : Byte) : BusAccess.write addr v ∉ stepAccesses s := by
  cases hr : s.run with
  | halted => rw [stepAccesses_of_halted hr]; exact List.not_mem_nil
  | running =>
    rw [stepAccesses_of_running hr]
    cases fetchInstr s <;> simp [execAccesses]

/-! ### Moves and memory (R79, R87) -/

theorem selectBank_rom {s t : State} {region : Region} {bank : Nat} (h : selectBank s region bank = .next t) : t.rom = s.rom := by
  rcases selectBank_next_cases h with ⟨-, -, rfl⟩ | ⟨-, -, -, rfl⟩ | ⟨-, -, -, rfl⟩ <;> rfl

/-- The moves between two reads that leave what the bus reads: no write, bank select, ROM load, construction or discard (R87). -/
def HostMove.KeepsReads (m : HostMove) : Prop :=
  ¬ (∃ a v, m = .busWrite a v) ∧ ¬ (∃ r n, m = .selectBank r n) ∧ ¬ (∃ buf, m = .loadRom buf) ∧
    ¬ (∃ cfg, m = .construct cfg) ∧ m ≠ .discard

theorem move_sameBus (x : Session) {s t : State} {m : HostMove} (hx : x.cpu = some s) (ht : (x.move m).2.cpu = some t)
    (hm : m.KeepsReads) : s.SameBus t := by
  obtain ⟨hwrite, hselect, hload, hconstruct, -⟩ := hm
  rcases move_cases x hx ht with ⟨cfg, e, -⟩ | rfl | ⟨buf, e, -⟩ | ⟨-, e⟩ | ⟨-, rfl⟩ | ⟨addr, v, e, -⟩ |
    ⟨sel, v, -, e⟩ | ⟨p, w, -, rfl⟩ | ⟨flag, on, -, rfl⟩ | ⟨r, n, e, -⟩
  · exact absurd ⟨cfg, e⟩ hconstruct
  · rfl
  · exact absurd ⟨buf, e⟩ hload
  · exact step_sameBus e
  · rfl
  · exact absurd ⟨addr, v, e⟩ hwrite
  · exact set8_sameBus e
  · exact set16_sameBus s w p
  · rfl
  · exact absurd ⟨r, n, e⟩ hselect

/-- After moves that keep reads the session holds a CPU whose every bus read is as before. -/
theorem after_busRead (ms : List HostMove) (hms : ∀ m ∈ ms, m.KeepsReads) :
    ∀ {x : Session} {s : State}, x.cpu = some s →
      ∃ t, (x.after ms).cpu = some t ∧ ∀ addr : Word, busRead t addr = busRead s addr := by
  induction ms with
  | nil => exact fun {_ s} hx => ⟨s, hx, fun _ => rfl⟩
  | cons m ms ih =>
    intro x s hx
    obtain ⟨hm, hrest⟩ := List.forall_mem_cons.mp hms
    obtain ⟨-, -, -, -, hdiscard⟩ := id hm
    obtain ⟨u, hu⟩ := move_keeps_cpu x hx hdiscard
    obtain ⟨t, ht, hread⟩ := ih hrest hu
    exact ⟨t, ht, fun addr => (hread addr).trans ((move_sameBus x hx hu hm).busRead addr)⟩

theorem move_busRead {x : Session} {s : State} (hx : x.cpu = some s) (addr : Word) :
    x.move (.busRead addr) = (.byte (busRead s addr), x) := by
  simp [Session.move, hx, Session.onCpu]

end Sys2Proof.Machine
end

section
/-! PROOF. The statements of 20_memory.md. -/

namespace Sys2Proof.Machine

/-- Settles O8: the decoded region holds the address, and an address in a region is decoded to it. -/
theorem regionsPartitionAddressSpace : Obligations.RegionsPartitionAddressSpace := by
  intro addr
  have hdecode : ∀ r : Region, r.first ≤ addr.toNat → addr.toNat < r.first + r.size →
      decodeAddress addr = (r, addr.toNat - r.first) :=
    fun r hfirst hlt => decodeAddress_of_region hfirst (by simp only [Region.last]; omega)
  refine ⟨⟨(decodeAddress addr).1, decodeNat_region addr.isLt, ?_⟩, hdecode⟩
  rintro r ⟨hfirst, hlt⟩
  rw [hdecode r hfirst hlt]

/-- Settles O9: an echo address and the one 0x2000 below it have the same target, a byte of work RAM. -/
theorem echoMirrorsWorkRam : Obligations.EchoMirrorsWorkRam := by
  intro s addr hfirst hlast
  have hecho := busTarget_echo s hfirst hlast
  have hwritable := busTarget_echo_writable s hfirst hlast
  refine ⟨?_, fun v => ?_, fun hlow => ?_, fun hhigh => ?_, fun hs => ⟨fun v => ⟨?_, ?_⟩, fun high hhigh htop => ?_⟩⟩
  · rw [busRead_eq, hecho, ← busRead_eq]
  · rw [busWrite_eq, hecho, ← busWrite_eq]
  · exact hecho.trans (busTarget_sub_bank0 s hfirst hlow)
  · exact hecho.trans (busTarget_sub_bankN s hhigh hlast)
  · exact busRead_busWrite_same hs v hecho.symm hwritable
  · exact busRead_busWrite_same hs v hecho (hecho ▸ hwritable)
  · obtain ⟨-, ⟨-, -, hbank, -⟩, -, -⟩ := hs
    exact busTarget_ne_echo s hfirst hlast hbank hhigh htop

/-- Settles O17: the write by its target, and the step by the fields the bus looks at. -/
theorem busWriteStoresOneByteOrNone : Obligations.BusWriteStoresOneByteOrNone :=
  ⟨fun s addr v hs =>
    ⟨busRead_busWrite_same hs v rfl, writeTarget_discarded s v, fun hk => writeTarget_of_isIo s v (isIo_of_ioTakes hk),
      fun _ hne hk => readTarget_writeTarget_ne s v hne hk, writeTarget_frame s v (busTarget s addr)⟩,
    fun s _ h => ⟨write_notMem_stepAccesses s, (step_sameBus h).readTarget⟩⟩

/-- Settles O18: reads by induction over the moves between them, writes by their target. -/
theorem readsArePureAndWritesIdempotent : Obligations.ReadsArePureAndWritesIdempotent := by
  refine ⟨fun x addr => ?_, fun x s ms addr hx hms => ?_, fun s addr v hs => ?_,
    fun s addr v => writeTarget_discarded s v⟩
  · cases hx : x.cpu with
    | none => simp [Session.move, hx]
    | some s => rw [move_busRead hx]
  · obtain ⟨t, ht, hread⟩ := after_busRead ms hms hx
    rw [move_busRead ht, move_busRead hx, hread]
  · obtain ⟨-, -, hstores, -⟩ := hs
    have htwice : busWrite (busWrite s addr v) addr v = writeTarget (busWrite s addr v) v (busTarget s addr) := by
      rw [busWrite_eq (busWrite s addr v), busTarget_busWrite]
    have hsame : ioTakes s v (busTarget s addr) = false → busWrite (busWrite s addr v) addr v = busWrite s addr v :=
      fun hk => htwice.trans (writeTarget_idempotent hstores v hk)
    refine ⟨hsame, ?_⟩
    cases hio : (busTarget s addr).isIo with
    | false => rw [hsame (ioTakes_of_not_io s v hio)]
    | true => rw [htwice]; exact writeTarget_of_isIo _ v hio

/-- Settles O19, move by move. -/
theorem onlyRomLoadWritesRom : Obligations.OnlyRomLoadWritesRom := by
  intro x s t m hx ht hload hconstruct
  rcases move_cases x hx ht with ⟨cfg, e, -⟩ | rfl | ⟨buf, e, -⟩ | ⟨-, e⟩ | ⟨-, rfl⟩ | ⟨addr, v, -, rfl⟩ |
    ⟨sel, v, -, e⟩ | ⟨p, w, -, rfl⟩ | ⟨flag, on, -, rfl⟩ | ⟨r, n, -, e⟩
  · exact absurd e (hconstruct cfg)
  · rfl
  · exact absurd e (hload buf)
  · exact (step_sameBus e).rom
  · rfl
  · exact busWrite_rom s addr v
  · exact (set8_sameBus e).rom
  · exact set16_rom s w p
  · rfl
  · exact selectBank_rom e

/-- Settles O7, region by region. -/
theorem addressDecodeFollowsMap : Obligations.AddressDecodeFollowsMap := fun _ =>
  ⟨decodeAddress_of_region (r := .rom0) (Nat.zero_le _), decodeAddress_of_region (r := .romN),
    decodeAddress_of_region (r := .vram), decodeAddress_of_region (r := .extram), decodeAddress_of_region (r := .wram0),
    decodeAddress_of_region (r := .wramN), decodeAddress_of_region (r := .echo), decodeAddress_of_region (r := .oam),
    decodeAddress_of_region (r := .unusable), decodeAddress_of_region (r := .io), decodeAddress_of_region (r := .hram),
    fun h => by rw [decodeAddress_of_region (r := .ie) h.ge h.le, h]; rfl⟩

/-- Settles O10: the target of the window is an index of work RAM, and no selector stands in it. -/
theorem workRamBankZeroIsFixed : Obligations.WorkRamBankZeroIsFixed := by
  intro s addr hfirst hlast
  have haccess := fun u : State => busAccess_of_region u (r := .wram0) nofun hfirst hlast
  exact ⟨(haccess s).1, (haccess s).2, fun bank => (haccess { s with wramBank := bank }).1.trans (haccess s).1.symm⟩

/-- Settles O11: the targets of the two windows, and the condition on a bank select. -/
theorem switchableRamWindows : Obligations.SwitchableRamWindows := fun s _ =>
  ⟨busAccess_of_region s (r := .vram) nofun, busAccess_of_region s (r := .wramN) nofun,
    fun hcgb bank => ⟨by simp [selectBank, hcgb], by simp [selectBank, hcgb]⟩, rfl, rfl⟩

/-- Settles O12: the targets of the two windows, which discard writes. -/
theorem romWindowsReadOnly : Obligations.RomWindowsReadOnly := fun s _ =>
  ⟨busAccess_of_region s (r := .rom0) nofun (Nat.zero_le _), busAccess_of_region s (r := .romN) nofun⟩

/-- Settles O13, by the target of the window with and without external RAM. -/
theorem externalRamPresentOrAbsent : Obligations.ExternalRamPresentOrAbsent := by
  intro s addr hfirst hlast
  have haccess := busAccess_of_region s (r := .extram) nofun hfirst hlast
  refine ⟨fun habsent => ?_, fun hpresent => ?_⟩
  · rw [regionTarget, if_neg (Bool.eq_false_iff.mp habsent)] at haccess
    exact haccess
  · rw [regionTarget, if_pos hpresent] at haccess
    exact haccess

/-- Settles O14: nothing stands behind the range. -/
theorem unusableRangeReadsFallback : Obligations.UnusableRangeReadsFallback := by
  intro s addr hfirst hlast
  obtain ⟨hread, hwrite⟩ := busAccess_of_region s (r := .unusable) nofun hfirst hlast
  exact ⟨hread, fun v => ⟨hwrite v, (congrArg (busRead · addr) (hwrite v)).trans hread⟩⟩

/-- Settles O15: the window's target is its offset, and what a hook answers or takes stands in its table. -/
theorem ioWindowFallsBack : Obligations.IoWindowFallsBack := by
  intro s addr hfirst hlast offset
  have htarget : busTarget s addr = .io offset := busTarget_of_region s (r := .io) nofun hfirst hlast
  have hread : busRead s addr = (ioReadAnswer s offset).getD fallback := by rw [busRead_eq, htarget]; rfl
  have hwrite : ∀ v, busWrite s addr v = ioWritten s offset v := fun v => by rw [busWrite_eq, htarget]; rfl
  have hnoRead : (∀ v : Byte, ⟨s.ioState, offset, v⟩ ∉ s.cfg.ioRead) → busRead s addr = 0xFF#8 := fun h => by
    rw [hread, ioReadAnswer_eq_none h]; rfl
  have hnoWrite : ∀ v : Byte, (∀ next : Nat, ⟨s.ioState, offset, v, next⟩ ∉ s.cfg.ioWrite) →
      busWrite s addr v = s ∧ busWriteResult s addr v = .done := fun v h =>
    ⟨(hwrite v).trans (ioWritten_declined (ioWriteAnswer_eq_none h)),
      busWriteResult_declined htarget (ioWriteAnswer_eq_none h)⟩
  refine ⟨hnoRead, fun v hv => ⟨by rw [hread, hv]; rfl, mem_ioRead_of_ioReadAnswer hv⟩, hnoWrite, fun v next hn => ?_,
    fun hempty => hnoRead fun v => by simp [hempty], fun hempty v => hnoWrite v fun next => by simp [hempty]⟩
  exact ⟨(hwrite v).trans (ioWritten_taken hn), busWriteResult_taken htarget hn, mem_ioWrite_of_ioWriteAnswer hn⟩

/-- Settles O16: the targets of the three regions. -/
theorem oamHramAndInterruptEnableAreStorage : Obligations.OamHramAndInterruptEnableAreStorage := fun s _ =>
  ⟨busAccess_of_region s (r := .oam) nofun, busAccess_of_region s (r := .hram) nofun,
    fun h => busAccess_of_region s (r := .ie) nofun h.ge h.le⟩

/-- Settles O20: the three selectors that can be stored, and the refusal of everything else. -/
theorem bankSelectStoresOrRefuses : Obligations.BankSelectStoresOrRefuses := by
  intro s n
  refine ⟨fun hn => if_pos hn, fun hcgb hn => if_pos ⟨hcgb, hn⟩, fun hcgb h1 h7 => if_pos ⟨hcgb, h1, h7⟩,
    fun r hrom hvram hwram => ?_⟩
  cases r
  case romN => exact if_neg fun hn => hrom ⟨rfl, hn⟩
  case vram => exact if_neg fun h => hvram ⟨rfl, h⟩
  case wramN => exact if_neg fun h => hwram ⟨rfl, h⟩
  all_goals rfl

end Sys2Proof.Machine
end

section
/-! PROOF. The decoder as the inverse of the encoder, by the fields of the opcode byte and the patterns of the table's rows (30_encoding.md
R111, R115, R116, R120). -/

namespace Sys2Proof.Machine

/-! ### The fields of an opcode byte (R111) -/

theorem fields_op8 : ∀ (blk : BitVec 2) (dst src : Code),
    op8Blk (op8 blk dst src) = blk ∧ op8Dst (op8 blk dst src) = dst ∧ op8Src (op8 blk dst src) = src := by decide

theorem eq_op8_iff {opcode : Byte} {blk : BitVec 2} {dst src : Code} :
    opcode = op8 blk dst src ↔ op8Blk opcode = blk ∧ op8Dst opcode = dst ∧ op8Src opcode = src := by
  constructor
  · rintro rfl
    exact fields_op8 blk dst src
  · rintro ⟨rfl, rfl, rfl⟩
    exact (op8_fields opcode).symm

/-! ### What the patterns of the unmapped rows ask of the fields (R116) -/

theorem op8Blk_of_pattern : ∀ (blk : BitVec 2) (opcode : Byte), opcode &&& 0xC0#8 = op8 blk 0 0 → op8Blk opcode = blk := by
  decide

theorem src_of_pattern_01xxx0xx : ∀ opcode : Byte, opcode &&& 0xC4#8 = 0x40#8 →
    op8Blk opcode = 0b01#2 ∧ (regOfCode (op8Src opcode) = some .b ∨ regOfCode (op8Src opcode) = some .c ∨
      regOfCode (op8Src opcode) = some .d ∨ regOfCode (op8Src opcode) = some .e) := by decide

theorem src_of_pattern_01xxx10x : ∀ opcode : Byte, opcode &&& 0xC6#8 = 0x44#8 →
    op8Blk opcode = 0b01#2 ∧ (regOfCode (op8Src opcode) = some .h ∨ regOfCode (op8Src opcode) = some .l) := by decide

theorem src_of_pattern_01xxx111 : ∀ opcode : Byte, opcode &&& 0xC7#8 = 0x47#8 →
    op8Blk opcode = 0b01#2 ∧ regOfCode (op8Src opcode) = some .a := by decide

/-! ### Decoder and encoder (R115, R116, R120) -/

/-- The encoding of a well-formed instruction is decoded in the branch of its own row. -/
theorem decodeOpcode_encodeOpcode {i : Instr} (h : i.wf = true) : decodeOpcode (encodeOpcode i) = i := by
  cases i
  case unimplBlk00 opcode =>
    simp [encodeOpcode, decodeOpcode, op8Blk_of_pattern 0b00#2 opcode (eq_of_beq h)]
  case unimplBlk10 opcode =>
    simp [encodeOpcode, decodeOpcode, op8Blk_of_pattern 0b10#2 opcode (eq_of_beq h)]
  case unimplBlk11 opcode =>
    simp [encodeOpcode, decodeOpcode, op8Blk_of_pattern 0b11#2 opcode (eq_of_beq h)]
  case unimplBlk01Src0 opcode =>
    obtain ⟨hblk, hsrc | hsrc | hsrc | hsrc⟩ := src_of_pattern_01xxx0xx opcode (eq_of_beq h) <;>
      simp [encodeOpcode, decodeOpcode, hblk, hsrc]
  case unimplBlk01Src4 opcode =>
    obtain ⟨hblk, hsrc | hsrc⟩ := src_of_pattern_01xxx10x opcode (eq_of_beq h) <;>
      simp [encodeOpcode, decodeOpcode, hblk, hsrc]
  case unimplBlk01Src7 opcode =>
    obtain ⟨hblk, hsrc⟩ := src_of_pattern_01xxx111 opcode (eq_of_beq h)
    simp [encodeOpcode, decodeOpcode, hblk, hsrc]
  all_goals rfl

theorem decode_encode_append (i : Instr) (rest : List Byte) :
    decode (encode i ++ rest) = .ok (decodeOpcode (encodeOpcode i), rest) := rfl

theorem decodeOpcode_wf : ∀ opcode : Byte, (decodeOpcode opcode).wf = true := by decide

/-- A well-formed instruction is the decoding of its own byte and of no other. -/
theorem decodeOpcode_eq_iff {opcode : Byte} {i : Instr} (h : i.wf = true) : decodeOpcode opcode = i ↔ opcode = encodeOpcode i := by
  constructor
  · rintro rfl
    exact (encodeOpcode_decodeOpcode opcode).symm
  · rintro rfl
    exact decodeOpcode_encodeOpcode h

/-! ### The loads (R115) -/

theorem loadOfReg_wf (r : Reg8) : (loadOfReg r).wf = true := by cases r <;> rfl

theorem encodeOpcode_loadOfReg (r : Reg8) : encodeOpcode (loadOfReg r) = op8 0b01#2 (codeOfReg r) 0b110#3 := by cases r <;> rfl

theorem decodeOpcode_eq_loadOfReg_iff {opcode : Byte} {r : Reg8} :
    decodeOpcode opcode = loadOfReg r ↔ op8Blk opcode = 0b01#2 ∧ op8Dst opcode = codeOfReg r ∧ op8Src opcode = 0b110#3 := by
  rw [decodeOpcode_eq_iff (loadOfReg_wf r), encodeOpcode_loadOfReg, eq_op8_iff]

/-- The descriptor of a load's byte at `pc` (R119, R120). -/
theorem decodeAt_of_load {s : State} {pc : Word} {r : Reg8} (h : decodeOpcode (busRead s pc) = loadOfReg r) :
    decodeAt s pc = .op ⟨.load8, .reg (codeOfReg r), .indirectHl, s.cfg.cyclesLdRHl, 1⟩ := by
  rw [decodeAt, h]
  cases r <;> rfl

/-! ### The opcode table (R124) -/

theorem row_matches_of_wf (i : Instr) : Laws.MatchesRow.Statement i := by
  cases i with
  | ldBHl => exact Laws.MatchesRow.ldBHl
  | ldCHl => exact Laws.MatchesRow.ldCHl
  | ldDHl => exact Laws.MatchesRow.ldDHl
  | ldEHl => exact Laws.MatchesRow.ldEHl
  | ldHHl => exact Laws.MatchesRow.ldHHl
  | ldLHl => exact Laws.MatchesRow.ldLHl
  | ldAHl => exact Laws.MatchesRow.ldAHl
  | unimplBlk00 opcode => exact Laws.MatchesRow.unimplBlk00 opcode
  | unimplBlk10 opcode => exact Laws.MatchesRow.unimplBlk10 opcode
  | unimplBlk11 opcode => exact Laws.MatchesRow.unimplBlk11 opcode
  | unimplBlk01Src0 opcode => exact Laws.MatchesRow.unimplBlk01Src0 opcode
  | unimplBlk01Src4 opcode => exact Laws.MatchesRow.unimplBlk01Src4 opcode
  | unimplBlk01Src7 opcode => exact Laws.MatchesRow.unimplBlk01Src7 opcode
  | unimpl76 => exact Laws.MatchesRow.unimpl76

theorem opcodeTable_countP_matches : ∀ opcode : Byte, opcodeTable.countP (fun row => row.matches opcode) = 1 := by decide

theorem isMapped_iff : ∀ opcode : Byte,
    isMapped opcode = true ↔ opcode ∈ [0x46#8, 0x4E#8, 0x56#8, 0x5E#8, 0x66#8, 0x6E#8, 0x7E#8] := by decide

end Sys2Proof.Machine
end

section
/-! PROOF. The statements of 30_encoding.md. -/

namespace Sys2Proof.Machine

/-- Settles O43: an instruction is its opcode byte, and the decoder inverts the encoder on the well-formed ones. -/
theorem decodeEncodeRoundTrip : Obligations.DecodeEncodeRoundTrip := by
  intro i rest h
  rw [decode_encode_append, decodeOpcode_encodeOpcode h]

/-- Settles O46: the bytes with these fields are those of the loads, and every other byte is unmapped. -/
theorem decodeAtFollowsFields : Obligations.DecodeAtFollowsFields := by
  intro s pc
  split
  case isTrue hfields =>
    obtain ⟨hblk, hsrc, hdst⟩ := hfields
    obtain ⟨r, hr⟩ := regOfCode_of_ne hdst
    have hcode := codeOfReg_of_regOfCode _ r hr
    rw [decodeAt_of_load (decodeOpcode_eq_loadOfReg_iff.mpr ⟨hblk, hcode.symm, hsrc⟩), hcode]
  case isFalse hfields =>
    refine decodeAt_of_not_load fun r hload => hfields ?_
    obtain ⟨hblk, hdst, hsrc⟩ := decodeOpcode_eq_loadOfReg_iff.mp hload
    exact ⟨hblk, hsrc, hdst ▸ codeOfReg_ne_memory_code r⟩

/-- Settles O44: the decoded instruction is well-formed and keeps the byte. -/
theorem everyOpcodeByteDecodes : Obligations.EveryOpcodeByteDecodes :=
  fun opcode _ => ⟨decodeOpcode opcode, rfl, decodeOpcode_wf opcode, congrArg ([·]) (encodeOpcode_decodeOpcode opcode)⟩

/-- Settles O45: the row of the decoded instruction is that of a well-formed one, whose encoding is the byte. -/
theorem opcodeTableRowsPartitionBytes : Obligations.OpcodeTableRowsPartitionBytes := by
  refine ⟨fun opcode => ⟨opcodeTable_countP_matches opcode, ?_⟩, isMapped_iff⟩
  have hrow := row_matches_of_wf (decodeOpcode opcode) (decodeOpcode_wf opcode)
  rwa [encodeOpcode_decodeOpcode] at hrow

/-- Settles O47, word by word. -/
theorem opcodeWordsDecode : Obligations.OpcodeWordsDecode :=
  ⟨rfl, rfl, rfl, rfl, rfl, rfl, rfl, rfl⟩

end Sys2Proof.Machine
end

section
/-! PROOF. One step by the byte at PC: its result and accesses (40_fetch_execute.md R147, R148), and how far a run can go (R154). -/

namespace Sys2Proof.Machine

/-! ### The instruction at PC (R115, R140, R142) -/

/-- A byte is mapped and decodes to the load of its destination code, or it is unmapped and decodes to no load (R115). -/
theorem decodeOpcode_cases (opcode : Byte) :
    (∃ r, decodeOpcode opcode = loadOfReg r ∧ isMapped opcode = true ∧ regOfCode (op8Dst opcode) = some r) ∨
    ((∀ r, decodeOpcode opcode ≠ loadOfReg r) ∧ isMapped opcode = false) := by
  cases hm : isMapped opcode with
  | true =>
    simp only [isMapped, Bool.and_eq_true, decide_eq_true_eq] at hm
    obtain ⟨⟨hblk, hsrc⟩, hdst⟩ := hm
    obtain ⟨r, hr⟩ := regOfCode_of_ne hdst
    have hcode := codeOfReg_of_regOfCode _ r hr
    exact .inl ⟨r, decodeOpcode_eq_loadOfReg_iff.mpr ⟨hblk, hcode.symm, hsrc⟩, rfl, hr⟩
  | false =>
    refine .inr ⟨fun r hload => ?_, rfl⟩
    obtain ⟨hblk, hdst, hsrc⟩ := decodeOpcode_eq_loadOfReg_iff.mp hload
    simp [isMapped, hblk, hdst, hsrc, codeOfReg_ne_memory_code] at hm

theorem step_of_running {s : State} (h : s.run = .running) : step s = exec (fetchInstr s) s := by
  simp [step, h]

/-! ### Results and accesses of the two kinds of instruction (R147, R148) -/

theorem execResult_loadOfReg (r : Reg8) (s : State) : execResult (loadOfReg r) s = .ok s.cfg.cyclesLdRHl := by
  cases r <;> rfl

/-- An instruction that is no load reports its opcode byte and PC, and accesses nothing (R191, R193). -/
theorem execReport_of_not_load {i : Instr} (hi : ∀ r, i ≠ loadOfReg r) (s : State) :
    execResult i s = .err (.unimplementedOpcode (encodeOpcode i) s.pc) ∧ execAccesses i s = [] := by
  cases i
  case ldBHl => exact absurd rfl (hi .b)
  case ldCHl => exact absurd rfl (hi .c)
  case ldDHl => exact absurd rfl (hi .d)
  case ldEHl => exact absurd rfl (hi .e)
  case ldHHl => exact absurd rfl (hi .h)
  case ldLHl => exact absurd rfl (hi .l)
  case ldAHl => exact absurd rfl (hi .a)
  all_goals exact ⟨rfl, rfl⟩

theorem stepResult_of_load {s : State} {r : Reg8} (h : s.run = .running) (hi : fetchInstr s = loadOfReg r) :
    stepResult s = .ok s.cfg.cyclesLdRHl := by
  rw [stepResult_of_running h, hi, execResult_loadOfReg]

theorem stepResult_of_not_load {s : State} (h : s.run = .running) (hi : ∀ r, fetchInstr s ≠ loadOfReg r) :
    stepResult s = .err (.unimplementedOpcode (busRead s s.pc) s.pc) := by
  rw [stepResult_of_running h, (execReport_of_not_load hi s).1, fetchInstr, encodeOpcode_decodeOpcode, fetchOpcode]

theorem stepAccesses_of_load {s : State} {r : Reg8} (h : s.run = .running) (hi : fetchInstr s = loadOfReg r) :
    stepAccesses s = [.read s.pc, .read (addressHl s)] := by
  rw [stepAccesses_of_running h, hi, execAccesses_loadOfReg]

theorem stepAccesses_of_not_load {s : State} (h : s.run = .running) (hi : ∀ r, fetchInstr s ≠ loadOfReg r) :
    stepAccesses s = [.read s.pc] := by
  rw [stepAccesses_of_running h, (execReport_of_not_load hi s).2]

/-- The state after a load, as R145 and R170 write it. -/
theorem advancePc_writeReg (s : State) (v : Byte) (r : Reg8) :
    advancePc 1 (writeReg s v r) = { writeReg s v r with pc := s.pc + 1#16 } := by
  cases r <;> rfl

/-! ### The step from descriptors (R140) -/

theorem descriptorStep_of_halted {s : State} (h : s.run = .halted) : descriptorStep s = some (.idle, s) := if_pos h

theorem descriptorStep_of_running {s : State} (h : s.run = .running) : descriptorStep s = engine (decodeAt s s.pc) s :=
  if_neg (by simp [h])

/-- The Execution Engine on the descriptor of a load (R144). -/
theorem engine_load (r : Reg8) (cycles : Nat) (s : State) :
    engine (.op ⟨.load8, .reg (codeOfReg r), .indirectHl, cycles, 1⟩) s =
      some (.ok cycles, advancePc 1 (writeReg s (readIndirectHl s) r)) := by
  cases r <;> rfl

theorem engine_unimplementedOpcode (opcode : Byte) (pc : Word) (s : State) :
    engine (.unimplementedOpcode opcode pc) s = some (.err (.unimplementedOpcode opcode pc), enterHalted s) := rfl

/-! ### No load is fetched at 0xFEA0, so PC does not pass it (R154) -/

/-- The byte at 0xFEA0 is always the fallback, and that is no load (20_memory.md R74). -/
theorem fetchInstr_at_unusable {s : State} (hpc : s.pc = 0xFEA0#16) (r : Reg8) : fetchInstr s ≠ loadOfReg r := by
  have hread : busRead s 0xFEA0#16 = fallback :=
    (busAccess_of_region s (r := .unusable) (addr := 0xFEA0#16) (by decide) (by decide) (by decide)).1
  rw [fetchInstr, fetchOpcode, hpc, hread]
  cases r <;> decide

theorem pc_ne_unusable_of_load {s : State} {r : Reg8} (hi : fetchInstr s = loadOfReg r) : s.pc ≠ 0xFEA0#16 :=
  fun hpc => fetchInstr_at_unusable hpc r hi

theorem step_pc_le_unusable {s t : State} (h : s.pc.toNat ≤ 0xFEA0) (ht : step s = .next t) : t.pc.toNat ≤ 0xFEA0 := by
  rcases step_cases s with ⟨-, e⟩ | ⟨-, r, hi, e⟩ | ⟨-, -, e⟩ <;> rw [e] at ht <;> cases ht
  · exact h
  · have hpc := pc_ne_unusable_of_load hi
    rw [advancePc_pc, writeReg_pc]
    bv_omega
  · exact h

theorem move_pc_le_unusable (x : Session) {s t : State} {m : HostMove} (hx : x.cpu = some s) (h : s.pc.toNat ≤ 0xFEA0)
    (hm : ∀ cfg, m ≠ .construct cfg) (ht : (x.move m).2.cpu = some t) : t.pc.toNat ≤ 0xFEA0 := by
  rcases move_steps_resumes_or_keeps x hx ht hm with ⟨-, e⟩ | ⟨-, rfl⟩ | ⟨hpc, -, -⟩
  · exact step_pc_le_unusable h e
  · exact h
  · rwa [hpc]

/-! ### The steps left before a run is Halted (R154) -/

/-- A run from `s` is Halted after `n` steps more: it is so already, or the bound of R154 is at most `n`. -/
def State.HaltsWithin (n : Nat) (s : State) : Prop := s.run = .halted ∨ stepsToHalt s ≤ n

theorem State.HaltsWithin.halted {s : State} (h : s.HaltsWithin 0) : s.run = .halted :=
  h.resolve_right (by simp [stepsToHalt])

theorem stepsToHalt_advancePc {s : State} (h : s.pc ≠ 0xFEA0#16) : stepsToHalt (advancePc 1 s) + 1 = stepsToHalt s := by
  unfold stepsToHalt
  rw [advancePc_pc]
  bv_omega

/-- A step uses up one of the steps left: it halts, or a load moves PC one closer to 0xFEA0. -/
theorem step_haltsWithin {s t : State} {n : Nat} (h : s.HaltsWithin (n + 1)) (ht : step s = .next t) : t.HaltsWithin n := by
  rcases step_cases s with ⟨hr, e⟩ | ⟨hr, r, hi, e⟩ | ⟨-, -, e⟩ <;> rw [e] at ht <;> cases ht
  · exact .inl hr
  · have hleft : stepsToHalt s ≤ n + 1 := h.resolve_left (by simp [hr])
    have hpc : (writeReg s (readIndirectHl s) r).pc ≠ 0xFEA0#16 := by simpa using pc_ne_unusable_of_load hi
    have hless := stepsToHalt_advancePc hpc
    have hsame : stepsToHalt (writeReg s (readIndirectHl s) r) = stepsToHalt s := by simp [stepsToHalt]
    exact .inr (by omega)
  · exact .inl rfl

theorem HostMove.keepsHalt_iff (m : HostMove) :
    m.keepsHalt = true ↔ (∀ cfg, m ≠ .construct cfg) ∧ m ≠ .resume ∧ m ≠ .discard := by
  cases m <;> simp [HostMove.keepsHalt]

theorem step_total (s : State) : ∃ t, step s = .next t := by
  rcases step_cases s with ⟨-, e⟩ | ⟨-, r, -, e⟩ | ⟨-, -, e⟩ <;> exact ⟨_, e⟩

/-- The host's step move puts the state the step answers in the session. -/
theorem step_of_move_step {x : Session} {s t : State} (hx : x.cpu = some s) (ht : (x.move .step).2.cpu = some t) :
    step s = .next t := by
  obtain ⟨u, hu⟩ := step_total s
  simpa [Session.move, hx, Session.onCpu, hu, Session.settle] using ht

/-- A move that neither resumes nor replaces the CPU uses up a step where it is one, and otherwise leaves the bound as it was. -/
theorem move_haltsWithin (x : Session) {s t : State} {m : HostMove} {ms : List HostMove} (hx : x.cpu = some s)
    (hm : m.keepsHalt = true) (h : s.HaltsWithin (stepCount (m :: ms))) (ht : (x.move m).2.cpu = some t) :
    t.HaltsWithin (stepCount ms) := by
  obtain ⟨hconstruct, hresume, -⟩ := m.keepsHalt_iff.mp hm
  by_cases hstep : m = .step
  · subst hstep
    exact step_haltsWithin (by simpa [stepCount] using h) (step_of_move_step hx ht)
  · rcases move_steps_resumes_or_keeps x hx ht hconstruct with ⟨e, -⟩ | ⟨e, -⟩ | ⟨hpc, -, hrun⟩
    · exact absurd e hstep
    · exact absurd e hresume
    · simpa [State.HaltsWithin, stepsToHalt, stepCount, hpc, hrun, hstep] using h

/-- After moves that neither resume nor replace the CPU, with as many steps among them as a run has left, the CPU is Halted. -/
theorem after_halted (ms : List HostMove) : ∀ {x : Session} {s : State}, x.cpu = some s → ms.all HostMove.keepsHalt = true →
    s.HaltsWithin (stepCount ms) → ∃ t, (x.after ms).cpu = some t ∧ t.run = .halted := by
  induction ms with
  | nil => exact fun {_ s} hx _ h => ⟨s, hx, h.halted⟩
  | cons m ms ih =>
    intro x s hx hms h
    rw [List.all_cons, Bool.and_eq_true] at hms
    obtain ⟨hm, hrest⟩ := hms
    obtain ⟨-, -, hdiscard⟩ := m.keepsHalt_iff.mp hm
    obtain ⟨u, hu⟩ := move_keeps_cpu x hx hdiscard
    exact ih hu hrest (move_haltsWithin x hx hm h hu)

end Sys2Proof.Machine
end

section
/-! PROOF. The statements of 40_fetch_execute.md. -/

namespace Sys2Proof.Machine

/-- Settles O51, by induction over the moves: each step halts or brings PC one closer to 0xFEA0, where no load is fetched. -/
theorem everyRunHalts : Obligations.EveryRunHalts :=
  fun _ _ ms hx _ hms hbound => after_halted ms hx hms (.inr hbound)

/-- Settles O52, by induction over the moves: only a load advances PC, and none is fetched at 0xFEA0. -/
theorem reachablePcAtMostUnusable : Obligations.ReachablePcAtMostUnusable :=
  fun _ h => h.induction (fun _ _ => Nat.zero_le _) (fun x _ _ _ hx hs hm ht => move_pc_le_unusable x hx hs hm ht)

/-- Settles O38, by what a step can do and whether the byte at PC is mapped. -/
theorem stepResultMatchesStateChange : Obligations.StepResultMatchesStateChange := by
  intro s t ht
  cases hr : s.run with
  | halted =>
    have hresult := stepResult_of_halted hr
    rw [step_of_halted hr] at ht
    cases ht
    exact .inr (.inr ⟨hresult, by rw [hresult]; rfl, rfl, rfl⟩)
  | running =>
    rcases decodeOpcode_cases (busRead s s.pc) with ⟨r, hi, hmapped, hcode⟩ | ⟨hi, hunmapped⟩
    · have hresult := stepResult_of_load hr hi
      rw [step_of_load hr hi] at ht
      cases ht
      refine .inl ⟨hresult, by rw [hresult]; rfl, rfl, hmapped,
        ⟨r, hcode, exec_loadOfReg r s, advancePc_writeReg s _ r⟩, by simpa using hr, fun hpc => ?_⟩
      rw [advancePc_pc, writeReg_pc]
      bv_omega
    · have hresult := stepResult_of_not_load hr hi
      rw [step_of_not_load hr hi] at ht
      cases ht
      exact .inr (.inl ⟨hresult, by rw [hresult]; rfl, rfl, hunmapped, rfl⟩)

/-- Settles O39, by whether the byte at PC is mapped. -/
theorem stepAccessesInOrder : Obligations.StepAccessesInOrder := by
  intro s
  rcases decodeOpcode_cases (busRead s s.pc) with ⟨r, hi, hmapped, -⟩ | ⟨hi, hunmapped⟩
  · exact ⟨fun hr _ => stepAccesses_of_load hr hi, fun _ hm => by simp [hmapped] at hm, stepAccesses_of_halted⟩
  · exact ⟨fun _ hm => by simp [hunmapped] at hm, fun hr _ => stepAccesses_of_not_load hr hi, stepAccesses_of_halted⟩

/-- Settles O40: in each case of a step the descriptor of the byte at PC makes the engine compute the same result and state. -/
theorem stepRefinesPseudocode : Obligations.StepRefinesPseudocode := by
  intro s
  rcases step_cases s with ⟨hr, e⟩ | ⟨hr, r, hi, e⟩ | ⟨hr, hi, e⟩ <;> refine ⟨_, e, ?_⟩
  · rw [descriptorStep_of_halted hr, stepResult_of_halted hr]
  · rw [descriptorStep_of_running hr, decodeAt_of_load hi, engine_load, stepResult_of_load hr hi]
  · rw [descriptorStep_of_running hr, decodeAt_of_not_load hi, engine_unimplementedOpcode, stepResult_of_not_load hr hi]

/-- Settles O36: the decoded instruction is the one a Running step executes and reports. -/
theorem stepRunsDecodedInstruction : Obligations.StepRunsDecodedInstruction := by
  intro s i hr hi
  obtain rfl : fetchInstr s = i := by injection hi with hi; exact (Prod.mk.inj hi).1
  exact ⟨step_of_running hr, stepResult_of_running hr, decodeOpcode_wf _⟩

/-- Settles O37: step, result and accesses of a Halted state, and the one field a resume writes. -/
theorem haltedStepIsIdle : Obligations.HaltedStepIsIdle :=
  fun _ => ⟨fun hr => ⟨step_of_halted hr, stepResult_of_halted hr, stepAccesses_of_halted hr⟩, rfl⟩

end Sys2Proof.Machine
end

section
/-! PROOF. The family `LD r,(HL)`: what a completed load leaves in its destination and everywhere else. The facts the statements of
41_ld_r_hl.md rest on. -/

namespace Sys2Proof.Machine

/-! ### The state after a load (R170) -/

/-- The bus cannot tell the state after a load from the one before (log entry 14). -/
theorem advancePc_writeReg_sameBus (n : Nat) (s : State) (v : Byte) (r : Reg8) : s.SameBus (advancePc n (writeReg s v r)) := by
  cases r <;> rfl

/-- What a load answers. -/
theorem eq_of_exec_loadOfReg {r : Reg8} {s t : State} (h : exec (loadOfReg r) s = .next t) :
    t = advancePc 1 (writeReg s (readIndirectHl s) r) :=
  (Host.Outcome.next.inj ((exec_loadOfReg r s).symm.trans h)).symm

/-- The destination holds the byte at the old HL, which the register write does not move (R178). -/
theorem readReg_loaded (r : Reg8) (s : State) :
    readReg (advancePc 1 (writeReg s (readIndirectHl s) r)) r = busRead s (get16 s .hl) := by
  rw [readReg_advancePc, readReg_writeReg_same, readIndirectHl, addressHl]

theorem getFlag_congr {s t : State} (h : t.f = s.f) (flag : Flag) : getFlag t flag = getFlag s flag := by
  rw [getFlag, getFlag, h]

/-- The rows of the seven loads pair each load with its destination (R171 to R177). -/
theorem eq_loadOfReg_of_mem_map {rs : List Reg8} {i : Instr} {r : Reg8}
    (h : (i, r) ∈ rs.map fun q => (loadOfReg q, q)) : i = loadOfReg r := by
  obtain ⟨q, -, hq⟩ := List.mem_map.mp h
  obtain ⟨rfl, rfl⟩ := Prod.mk.inj hq
  rfl

end Sys2Proof.Machine
end

section
/-! PROOF. The statements of 41_ld_r_hl.md. -/

namespace Sys2Proof.Machine

/-- Settles O28: the registers by the one that is written, everything behind the bus by the fields the bus looks at. -/
theorem loadFrame : Obligations.LoadFrame := by
  intro i r s t hrow ht
  obtain rfl : i = loadOfReg r := eq_loadOfReg_of_mem_map (rs := [.b, .c, .d, .e, .h, .l, .a]) hrow
  obtain rfl := eq_of_exec_loadOfReg ht
  have hbus := advancePc_writeReg_sameBus 1 s (readIndirectHl s) r
  have hf : (advancePc 1 (writeReg s (readIndirectHl s) r)).f = s.f := by simp
  refine ⟨fun q hq => ?_, hf, getFlag_congr hf, by simp, by simp, by simp, by simp, by simp, by simp, by simp, by simp,
    hbus.busRead, hbus.readTarget⟩
  rw [readReg_advancePc, readReg_writeReg_ne s _ hq]

/-- Settles O29: the destination holds the bus read at HL, which is one of the target of HL's region. -/
theorem loadedByteByRegion : Obligations.LoadedByteByRegion := by
  intro r s
  refine ⟨_, exec_loadOfReg r s, ?_⟩
  rw [readReg_loaded]
  intro n
  have hregion : ∀ q : Region, q ≠ .echo → q.first ≤ n → n ≤ q.last →
      busRead s (get16 s .hl) = readTarget s (regionTarget s q (n - q.first)) :=
    fun q hq hfirst hlast => (busAccess_of_region s hq hfirst hlast).1
  have hio := hregion .io nofun
  refine ⟨hregion .rom0 nofun (Nat.zero_le n), hregion .romN nofun, hregion .vram nofun, fun hfirst hlast => ?_,
    hregion .wram0 nofun, hregion .wramN nofun, fun hfirst hlast => ?_, hregion .oam nofun, hregion .unusable nofun,
    hio, fun hfirst hlast hempty => ?_, hregion .hram nofun, fun h => hregion .ie nofun h.ge h.le, fun hpc => ?_⟩
  · rw [hregion .extram nofun hfirst hlast, regionTarget, apply_ite (readTarget s)]
    rfl
  · rw [busRead_eq, busTarget_echo s hfirst hlast, ← busRead_eq]
  · have hnone : ioReadAnswer s (n - 0xFF00) = none := ioReadAnswer_eq_none fun v => by simp [hempty]
    exact (hio hfirst hlast).trans (congrArg (Option.getD · fallback) hnone)
  · rw [hpc, fetchOpcode]

/-- Settles O26, by what a load answers and reports. -/
theorem loadsOfPlainRegistersComplete : Obligations.LoadsOfPlainRegistersComplete := by
  refine fun s => ⟨exec_loadOfReg .b s, exec_loadOfReg .c s, exec_loadOfReg .d s, exec_loadOfReg .e s, exec_loadOfReg .a s,
    fun i hi => ?_⟩
  obtain ⟨r, -, rfl⟩ : ∃ r ∈ [Reg8.b, .c, .d, .e, .a], loadOfReg r = i := List.mem_map.mp hi
  exact execResult_loadOfReg r s

/-- Settles O27: HL afterwards is the loaded byte with the half that no write reaches. -/
theorem loadsOfAddressHalvesComplete : Obligations.LoadsOfAddressHalvesComplete := by
  refine fun s => ⟨exec_loadOfReg .h s, exec_loadOfReg .l s, execResult_loadOfReg .h s, execResult_loadOfReg .l s,
    fun t ht => ?_, fun t ht => ?_⟩
  · obtain rfl := eq_of_exec_loadOfReg (r := .h) ht
    rfl
  · obtain rfl := eq_of_exec_loadOfReg (r := .l) ht
    rfl

end Sys2Proof.Machine
end

section
/-! PROOF. The unmapped opcodes: the fetched instruction is no load, so the step halts and reports the byte at PC. The facts the statements
of 42_unmapped_opcodes.md rest on. -/

namespace Sys2Proof.Machine

/-! ### What shows that an instruction is no load -/

/-- None of the seven UNIMPLEMENTED rows of R116 is a load. -/
theorem ne_loadOfReg_of_mem_unimplemented {b : Byte} {i : Instr}
    (hi : i ∈ [Instr.unimplBlk00 b, .unimplBlk10 b, .unimplBlk11 b, .unimplBlk01Src0 b, .unimplBlk01Src4 b, .unimplBlk01Src7 b,
      .unimpl76]) (r : Reg8) : i ≠ loadOfReg r := by
  rintro rfl
  cases r <;> simp [loadOfReg] at hi

/-- A byte whose descriptor is `UnimplementedOpcode` decodes to no load (R120). -/
theorem fetchInstr_ne_load_of_decodeAt {s : State} {opcode : Byte} {pc : Word} (h : decodeAt s s.pc = .unimplementedOpcode opcode pc)
    (r : Reg8) : fetchInstr s ≠ loadOfReg r :=
  fun hi => Descriptor.noConfusion ((decodeAt_of_load hi).symm.trans h)

/-- A Running step that reports an error fetched no load (R147). -/
theorem fetchInstr_ne_load_of_stepResult {s : State} {e : Fault} (hr : s.run = .running) (h : stepResult s = .err e) (r : Reg8) :
    fetchInstr s ≠ loadOfReg r :=
  fun hi => StepResult.noConfusion ((stepResult_of_load hr hi).symm.trans h)

/-! ### The halt, and the halt after a resume (R191, R194) -/

theorem exec_of_not_load {i : Instr} (hi : ∀ r, i ≠ loadOfReg r) (s : State) : exec i s = .next (enterHalted s) := by
  rcases exec_cases i s with ⟨r, hr, -⟩ | ⟨-, e⟩
  · exact absurd hr (hi r)
  · exact e

/-- Two Running states with the same PC and the same unmapped byte there halt with the same error (R194). -/
theorem halts_again {s u : State} (hs : s.run = .running) (hi : ∀ r, fetchInstr s ≠ loadOfReg r) (hu : u.run = .running)
    (hpc : u.pc = s.pc) (hbyte : busRead u u.pc = busRead s s.pc) :
    step u = .next (enterHalted u) ∧ stepResult u = stepResult s := by
  have hfetch : fetchInstr u = fetchInstr s := congrArg decodeOpcode hbyte
  have hiu : ∀ r, fetchInstr u ≠ loadOfReg r := by rwa [hfetch]
  refine ⟨step_of_not_load hu hiu, ?_⟩
  rw [stepResult_of_not_load hu hiu, stepResult_of_not_load hs hi, hbyte, hpc]

end Sys2Proof.Machine
end

section
/-! PROOF. The statements of 42_unmapped_opcodes.md. -/

namespace Sys2Proof.Machine

/-- Settles O32: a descriptor `UnimplementedOpcode` comes from no load, whose step reads only the byte it reports. -/
theorem unmappedOpcodeReadsOneByte : Obligations.UnmappedOpcodeReadsOneByte := by
  intro s opcode pc hr hd
  have hi := fetchInstr_ne_load_of_decodeAt hd
  exact ⟨stepAccesses_of_not_load hr hi, stepResult_of_not_load hr hi⟩

/-- Settles O33: the halt moves neither PC nor the byte there, so the resumed state is one of the Running states that halt again; PC by what
a host move other than a step leaves alone. -/
theorem resumeOnUnmappedHaltsAgain : Obligations.ResumeOnUnmappedHaltsAgain := by
  refine ⟨fun s t hr herr ht => ?_, fun x s t m hx ht hstep hm => ?_⟩
  · have hi := fetchInstr_ne_load_of_stepResult hr herr
    obtain rfl : enterHalted s = t := Host.Outcome.next.inj ((step_of_not_load hr hi).symm.trans ht)
    obtain ⟨hagain, hsame⟩ : step (resume (enterHalted s)) = .next (enterHalted s) ∧ stepResult (resume (enterHalted s)) = stepResult s :=
      halts_again hr hi rfl rfl (by simp)
    exact ⟨rfl, step_of_halted rfl, hagain, hsame, fun u => halts_again hr hi⟩
  · obtain ⟨-, -, hpc⟩ := stackPointerAndFlagsOnlyByHost x s t m hx ht hm
    exact not_imp_comm.mp hpc hstep

/-- Settles O30: none of the seven rows is a load, and an instruction that is no load halts and reports its byte and PC. -/
theorem unmappedOpcodesTakeTheHalt : Obligations.UnmappedOpcodesTakeTheHalt := by
  intro s b i hrow
  have hi := ne_loadOfReg_of_mem_unimplemented hrow
  obtain ⟨hresult, -⟩ := execReport_of_not_load hi s
  exact ⟨exec_of_not_load hi s, hresult⟩

end Sys2Proof.Machine
end

section
/-! PROOF. The trap, the halt that lasts, and the ROM load that is rejected. The facts the statements of 60_exceptions.md rest on. -/

namespace Sys2Proof.Machine

/-! ### What a step reports (R205, R206) -/

/-- A step that reports an error is of a Running core: a Halted one answers `Idle` (D6). -/
theorem running_of_stepResult_err {s : State} {e : Fault} (h : stepResult s = .err e) : s.run = .running := by
  cases hr : s.run with
  | running => rfl
  | halted => exact StepResult.noConfusion ((stepResult_of_halted hr).symm.trans h)

/-- The one error a step can report is the byte at PC, unmapped, and PC (R206). -/
theorem eq_of_stepResult_err {s : State} {e : Fault} (h : stepResult s = .err e) :
    e = .unimplementedOpcode (busRead s s.pc) s.pc := by
  have hr := running_of_stepResult_err h
  have hi := fetchInstr_ne_load_of_stepResult hr h
  exact StepResult.err.inj (h.symm.trans (stepResult_of_not_load hr hi))

/-- The host's step move returns the step's result (R147). -/
theorem move_step_result {x : Session} {s : State} (hx : x.cpu = some s) : (x.move .step).1 = .stepped (stepResult s) := by
  obtain ⟨t, ht⟩ := step_total s
  simp [Session.move, hx, Session.onCpu, ht, Session.settle]

/-! ### Without a resume a Halted core stays as it is (R210) -/

/-- No move that keeps the instance and does not resume it ends the halt or moves PC. -/
theorem move_keeps_halted (x : Session) {s t : State} {m : HostMove} (hx : x.cpu = some s) (hr : s.run = .halted)
    (hm : m.keepsHalt = true) (ht : (x.move m).2.cpu = some t) : t.run = .halted ∧ t.pc = s.pc := by
  obtain ⟨hconstruct, hresume, -⟩ := m.keepsHalt_iff.mp hm
  rcases move_steps_resumes_or_keeps x hx ht hconstruct with ⟨-, e⟩ | ⟨e, -⟩ | ⟨hpc, -, hrun⟩
  · obtain rfl : s = t := Host.Outcome.next.inj ((step_of_halted hr).symm.trans e)
    exact ⟨hr, rfl⟩
  · exact absurd e hresume
  · exact ⟨hrun.trans hr, hpc⟩

theorem after_keeps_halted (ms : List HostMove) : ∀ {x : Session} {s : State}, x.cpu = some s → s.run = .halted →
    ms.all HostMove.keepsHalt = true → ∃ t, (x.after ms).cpu = some t ∧ t.run = .halted ∧ t.pc = s.pc := by
  induction ms with
  | nil => exact fun {_ s} hx hr _ => ⟨s, hx, hr, rfl⟩
  | cons m ms ih =>
    intro x s hx hr hms
    rw [List.all_cons, Bool.and_eq_true] at hms
    obtain ⟨hm, hrest⟩ := hms
    obtain ⟨-, -, hdiscard⟩ := m.keepsHalt_iff.mp hm
    obtain ⟨u, hu⟩ := move_keeps_cpu x hx hdiscard
    obtain ⟨hur, hupc⟩ := move_keeps_halted x hx hr hm hu
    obtain ⟨t, ht, htr, htpc⟩ := ih hu hur hrest
    exact ⟨t, ht, htr, htpc.trans hupc⟩

/-! ### A ROM load before the first step (R204) -/

section RomLoad

variable {x : Session} {s : State} {buf : List Byte} (hx : x.cpu = some s) (hstepped : x.stepped = false)

include hx hstepped

theorem move_loadRom_of_fits (hfit : buf.length ≤ s.cfg.maxRomSize) : (x.move (.loadRom buf)).1 = .done := by
  simp [Session.move, hx, Session.onCpu, hstepped, loadRom, hfit, Session.settle]

theorem move_loadRom_of_too_large (hlarge : s.cfg.maxRomSize < buf.length) :
    x.move (.loadRom buf) = (.error (.romTooLarge buf.length), x) := by
  simp [Session.move, hx, Session.onCpu, hstepped, loadRom, hlarge.not_ge, Session.settle]

end RomLoad

end Sys2Proof.Machine
end

section
/-! PROOF. The statements of 60_exceptions.md. -/

namespace Sys2Proof.Machine

/-- Settles O31: the descriptor of a byte that decodes to no load carries that byte and PC, and its step only halts. -/
theorem trapEntrySavesNothing : Obligations.TrapEntrySavesNothing := by
  intro s opcode pc hr hd
  have hi := fetchInstr_ne_load_of_decodeAt hd
  obtain ⟨rfl, rfl⟩ := Descriptor.unimplementedOpcode.inj (hd.symm.trans (decodeAt_of_not_load hi))
  exact ⟨rfl, rfl, step_of_not_load hr hi, stepResult_of_not_load hr hi⟩

/-- Settles O34, by induction over the moves: each keeps the halt and PC, and the step of a Halted core is `Idle`. -/
theorem haltDoesNotNest : Obligations.HaltDoesNotNest := by
  intro x s ms hx hr hms
  obtain ⟨t, ht, htr, hpc⟩ := after_keeps_halted ms hx hr hms
  exact ⟨t, ht, htr, hpc, by rw [move_step_result ht, stepResult_of_halted htr], stepAccesses_of_halted htr⟩

/-- Settles O41: a step always answers, and reports an error only where a Running core fetched no load. -/
theorem stepNeverStops : Obligations.StepNeverStops :=
  fun s => ⟨step_total s, fun _ => eq_of_stepResult_err⟩

/-- Settles O23: the rejected load returns the session it was given, so the retry is a load before the first step too; a step reports no error
but `UnimplementedOpcode` and never faults. -/
theorem oversizedRomIsRejected : Obligations.OversizedRomIsRejected := by
  refine ⟨fun x s buf hx hstepped hlarge => ?_, fun s n => ⟨fun herr => ?_, fun hfault => ?_⟩⟩
  · have hrejected := move_loadRom_of_too_large hx hstepped hlarge
    refine ⟨hrejected, fun retry hfit => ?_⟩
    rw [hrejected]
    exact move_loadRom_of_fits hx hstepped hfit
  · exact Fault.noConfusion (eq_of_stepResult_err herr)
  · obtain ⟨t, ht⟩ := step_total s
    cases ht.symm.trans hfault

end Sys2Proof.Machine
end

section
/-! PROOF. Construction, ROM load and discard as moves of a session, the bytes a ROM load leaves, a byte written or placed where the next
step reads it. The facts the statements of 70_reset_and_hazards.md rest on. -/

namespace Sys2Proof.Machine

/-! ### A ROM filled from a buffer, and a read of it (R243) -/

/-- Counted from its first index, a filled store holds the buffer's bytes and zero beyond them. -/
theorem Memory.read_ofBytesFrom (bytes : List Byte) :
    ∀ i k : Nat, (Memory.ofBytesFrom i bytes).read (i + k) = bytes.getD k 0#8 := by
  induction bytes with
  | nil => exact fun _ _ => rfl
  | cons v vs ih =>
    intro i k
    cases k with
    | zero => exact Memory.read_consCell_same (Memory.read_below _ (Memory.wfFrom_ofBytesFrom vs (i + 1)) (Nat.lt_succ_self i))
    | succ k =>
      have htail := ih (i + 1) k
      rw [Nat.add_right_comm] at htail
      exact (Memory.read_consCell_ne v _ (by omega)).trans htail

/-- A buffer that fits is loaded (R243). -/
theorem loadRom_of_fits {s : State} {buf : List Byte} (h : buf.length ≤ s.cfg.maxRomSize) :
    loadRom s buf = .next { s with rom := Memory.ofBytesFrom 0 buf } := if_pos h

theorem busTarget_zero (s : State) : busTarget s 0#16 = .rom 0 := rfl

theorem busRead_of_rom {s : State} {addr : Word} {i : Nat} (hx : busTarget s addr = .rom i) : busRead s addr = s.rom.read i := by
  rw [busRead_eq, hx, readTarget]

/-! ### Construction and discard (R240, R248) -/

/-- A construction answers with its own instance, no step taken on it, whatever the session held (log entry 28). -/
theorem move_construct (x : Session) (cfg : Config) :
    x.move (.construct cfg) = (.done, { cpu := some (State.construct cfg), stepped := false }) := by
  cases h : x.cpu <;> simp [Session.move, h, Session.onCpu]

theorem move_discard {x : Session} {s : State} (hx : x.cpu = some s) : x.move .discard = (.done, Session.start) := by
  simp [Session.move, hx, Session.onCpu]

/-- Without an instance every move but construction is refused and changes nothing. -/
theorem move_of_no_cpu {x : Session} {m : HostMove} (hx : x.cpu = none) (hm : ∀ cfg, m ≠ .construct cfg) :
    x.move m = (.refused .noCpu, x) := by
  cases m
  case construct cfg => exact absurd rfl (hm cfg)
  all_goals simp [Session.move, hx]

/-- The first step of an instance without a ROM is on the byte 0x00 at 0x0000, which is no load (R247). -/
theorem fetchInstr_construct_ne_load (cfg : Config) (r : Reg8) : fetchInstr (State.construct cfg) ≠ loadOfReg r := by
  have hread : busRead (State.construct cfg) 0#16 = 0x00#8 := busRead_of_rom (busTarget_zero _)
  have hfetch : fetchInstr (State.construct cfg) = decodeOpcode 0x00#8 := congrArg decodeOpcode hread
  rw [hfetch]
  cases r <;> decide

/-! ### The host's record of a step (R245) -/

/-- An outcome settled with the session's own record leaves that record. -/
theorem settle_keeps_stepped (x : Session) (result : MoveResult) (o : Host.Outcome State Fault Refusal) :
    (x.settle x.stepped result o).2.stepped = x.stepped := by
  cases o <;> rfl

/-- Of the moves that keep the instance, a step sets the record and no other touches it. -/
theorem move_stepped {x : Session} {s : State} {m : HostMove} (hx : x.cpu = some s) (hconstruct : ∀ cfg, m ≠ .construct cfg)
    (hdiscard : m ≠ .discard) : (x.move m).2.stepped = (decide (m = .step) || x.stepped) := by
  cases m <;> simp only [Session.move, hx, Session.onCpu, reduceCtorEq, decide_false, decide_true, Bool.false_or, Bool.true_or]
  case construct cfg => exact absurd rfl (hconstruct cfg)
  case discard => exact absurd rfl hdiscard
  case loadRom buf =>
    split
    · rfl
    · rename_i h
      rw [← Bool.eq_false_iff.mpr h]
      exact settle_keeps_stepped x .done (loadRom s buf)
  case step =>
    obtain ⟨t, ht⟩ := step_total s
    rw [ht]
    rfl
  case get8 sel => split <;> rfl
  case set8 sel v => split <;> rfl
  case selectBank region bank => exact settle_keeps_stepped x .done (selectBank s region bank)

/-- Once a step is on the record, moves that keep the instance leave it there. -/
theorem after_stepped (ms : List HostMove) : ∀ {x : Session} {s : State}, x.cpu = some s → x.stepped = true →
    (∀ m ∈ ms, (∀ cfg, m ≠ .construct cfg) ∧ m ≠ .discard) →
    ∃ t, (x.after ms).cpu = some t ∧ (x.after ms).stepped = true := by
  induction ms with
  | nil => exact fun {_ s} hx hstepped _ => ⟨s, hx, hstepped⟩
  | cons m ms ih =>
    intro x s hx hstepped hms
    obtain ⟨⟨hconstruct, hdiscard⟩, hrest⟩ := List.forall_mem_cons.mp hms
    obtain ⟨u, hu⟩ := move_keeps_cpu x hx hdiscard
    exact ih hu (by rw [move_stepped hx hconstruct hdiscard, hstepped, Bool.or_true]) hrest

theorem move_loadRom_of_stepped {x : Session} {s : State} (hx : x.cpu = some s) (hstepped : x.stepped = true) (buf : List Byte) :
    x.move (.loadRom buf) = (.refused .romLoadAfterFirstStep, x) := by
  simp [Session.move, hx, Session.onCpu, hstepped]

/-! ### A load after a load or a write (R249) -/

/-- A load leaves the byte at the HL it found in its destination. -/
theorem readReg_of_exec_loadOfReg {r : Reg8} {s t : State} (h : exec (loadOfReg r) s = .next t) :
    readReg t r = busRead s (get16 s .hl) := by
  rw [eq_of_exec_loadOfReg h]
  exact readReg_loaded r s

/-- A load changes no byte that the bus reads. -/
theorem busRead_of_exec_loadOfReg {r : Reg8} {s t : State} (h : exec (loadOfReg r) s = .next t) (addr : Word) :
    busRead t addr = busRead s addr := by
  rw [eq_of_exec_loadOfReg h]
  simp

@[simp] theorem get16_busWrite (s : State) (addr : Word) (v : Byte) (p : Pair) : get16 (busWrite s addr v) p = get16 s p := by
  cases p <;> simp [get16]

/-! ### A byte placed where the next step fetches (log entry 18) -/

/-- `s` Running with PC at `pc` and the byte at index `i` of the ROM. -/
def placeInRom (s : State) (pc : Word) (i : Nat) (opcode : Byte) : State :=
  { s with run := .running, pc := pc, rom := s.rom.write i opcode }

theorem busTarget_placeInRom (s : State) (pc : Word) (i : Nat) (opcode : Byte) (addr : Word) :
    busTarget (placeInRom s pc i opcode) addr = busTarget s addr := busTarget_congr rfl rfl rfl rfl addr

/-- Where PC leads to a target that keeps a write, placing a byte is writing it there; otherwise the byte goes to the index of the ROM
that the new PC leads to. -/
theorem placeOpcode_cases (s : State) (opcode : Byte) :
    ((busTarget s s.pc).writable = true ∧ placeOpcode s opcode = resume (busWrite s s.pc opcode)) ∨
    (∃ pc i, busTarget s pc = .rom i ∧ placeOpcode s opcode = placeInRom s pc i opcode) := by
  rw [busWrite_eq]
  unfold placeOpcode
  cases hx : busTarget s s.pc
  case rom i => exact .inr ⟨s.pc, i, hx, rfl⟩
  case io offset => exact .inr ⟨0#16, 0, busTarget_zero s, rfl⟩
  case unbacked => exact .inr ⟨0#16, 0, busTarget_zero s, rfl⟩
  all_goals exact .inl ⟨rfl, rfl⟩

theorem placeOpcode_run (s : State) (opcode : Byte) : (placeOpcode s opcode).run = .running := by
  rcases placeOpcode_cases s opcode with ⟨-, e⟩ | ⟨pc, i, -, e⟩
  · rw [e, resume_run]
  · rw [e, placeInRom]

/-- The next step fetches the byte that was placed. -/
theorem fetchOpcode_placeOpcode {s : State} (hs : s.Inv) (opcode : Byte) : fetchOpcode (placeOpcode s opcode) = opcode := by
  rcases placeOpcode_cases s opcode with ⟨hwritable, e⟩ | ⟨pc, i, hx, e⟩ <;> rw [e]
  · rw [fetchOpcode, resume_pc, busWrite_pc, busRead_resume]
    exact busRead_busWrite_same hs opcode rfl hwritable
  · obtain ⟨-, -, ⟨⟨hrom, -⟩, -⟩, -⟩ := hs
    have htarget : busTarget (placeInRom s pc i opcode) pc = .rom i := (busTarget_placeInRom s pc i opcode pc).trans hx
    exact (busRead_of_rom htarget).trans (Memory.read_write_same hrom i opcode)

/-- The table word of a byte is that byte. -/
theorem withFetchWord_toNat (s : State) (b : Byte) : s.withFetchWord 8 b.toNat = placeOpcode s b := by
  rw [State.withFetchWord, Nat.mod_eq_of_lt b.isLt, BitVec.ofNat_toNat, BitVec.setWidth_eq]

end Sys2Proof.Machine
end

section
/-! PROOF. The statements of 70_reset_and_hazards.md. -/

namespace Sys2Proof.Machine

/-- Settles O22: a load that fits fills the ROM from index 0, and a filled store is canonical. -/
theorem romLoadCopiesBuffer : Obligations.RomLoadCopiesBuffer := by
  refine fun s buf hfit => ⟨_, loadRom_of_fits hfit, fun i => ?_, rfl, Memory.wf_ofBytesFrom 0 buf⟩
  have hread := Memory.read_ofBytesFrom buf 0 i
  rwa [Nat.zero_add] at hread

/-- Settles O24, by induction over the moves after the step: none takes the step off the host's record. -/
theorem romLoadRefusedAfterStep : Obligations.RomLoadRefusedAfterStep := by
  intro x s ms buf hx hms
  obtain ⟨t, ht⟩ := move_keeps_cpu x hx (m := .step) nofun
  obtain ⟨u, hu, hstepped⟩ := after_stepped ms ht (move_stepped hx nofun nofun) hms
  exact move_loadRom_of_stepped hu hstepped buf

/-- Settles O42: a load's destination holds the bus read at the old HL, and the load changes no byte the bus reads; a byte written to a
writable target is what the bus reads there, and the write moves neither PC nor HL. -/
theorem noLoadOrFetchHazard : Obligations.NoLoadOrFetchHazard := by
  refine ⟨fun r q s t u ht hu => ⟨readReg_of_exec_loadOfReg ht, ?_⟩, fun s v hs hwritable => ?_,
    fun r s t v hs hwritable ht => ?_⟩
  · rw [readReg_of_exec_loadOfReg hu, busRead_of_exec_loadOfReg ht]
  · rw [fetchInstr, fetchOpcode, busWrite_pc, busRead_busWrite_same hs v rfl hwritable]
  · rw [readReg_of_exec_loadOfReg ht, get16_busWrite, busRead_busWrite_same hs v rfl hwritable]

/-- Settles O58: placing a byte leaves the loop Running, and the byte is the one the step fetches. -/
theorem placedWordIsTheNextInstruction : Obligations.PlacedWordIsTheNextInstruction := by
  intro s b hs
  rw [withFetchWord_toNat]
  refine ⟨placeOpcode_run s b, ?_⟩
  rw [step_of_running (placeOpcode_run s b), fetchInstr, fetchOpcode_placeOpcode hs]

/-- Settles O21: the instance is the one of R40, and a load that fits is loaded. -/
theorem constructionIsZeroInitialized : Obligations.ConstructionIsZeroInitialized := by
  refine fun x cfg => ⟨State.construct cfg, move_construct x cfg, fun r => ?_, rfl, rfl, rfl, rfl, rfl, rfl, rfl, rfl, rfl,
    fun _ => ⟨rfl, rfl, rfl, rfl, rfl, rfl⟩, fun _ hfit => ⟨_, loadRom_of_fits hfit⟩⟩
  cases r <;> rfl

/-- Settles O25: a discard leaves the session without an instance, where construction is the only move. -/
theorem discardEndsTheInstance : Obligations.DiscardEndsTheInstance := by
  intro x s hx
  refine ⟨fun m hm => move_keeps_cpu x hx hm, ?_, fun m hm => ?_⟩ <;> rw [move_discard hx]
  · rfl
  · exact move_of_no_cpu rfl hm

/-- Settles O54: the byte fetched is no load, so the step halts and reports it. -/
theorem bootWithoutRomHalts : Obligations.BootWithoutRomHalts :=
  have hi := fetchInstr_construct_ne_load Config.default
  ⟨step_of_not_load rfl hi, stepResult_of_not_load rfl hi⟩

end Sys2Proof.Machine
end

section
/-! PROOF. The `CGB_MODE` parameter and the step (92_eei_decisions.md D12): the bus does not consult it, so two runs of one step that
differ in it agree. -/

namespace Sys2Proof.Machine

/-- The state with another value of `CGB_MODE`. -/
def withCgbMode (on : Bool) (s : State) : State := { s with cfg := { s.cfg with cgbMode := on } }

/-- The selectors and `EXT_RAM_PRESENT` decide what stands behind an address. -/
theorem busTarget_withCgbMode (on : Bool) (s : State) (addr : Word) : busTarget (withCgbMode on s) addr = busTarget s addr := by
  unfold busTarget
  cases (decodeAddress (redirect addr)).1 <;> rfl

theorem readTarget_withCgbMode (on : Bool) (s : State) (x : Target) : readTarget (withCgbMode on s) x = readTarget s x := by
  cases x <;> rfl

theorem busRead_withCgbMode (on : Bool) (s : State) (addr : Word) : busRead (withCgbMode on s) addr = busRead s addr := by
  rw [busRead_eq, busRead_eq, busTarget_withCgbMode, readTarget_withCgbMode]

theorem fetchInstr_withCgbMode (on : Bool) (s : State) : fetchInstr (withCgbMode on s) = fetchInstr s :=
  congrArg decodeOpcode (busRead_withCgbMode on s s.pc)

theorem step_withCgbMode {s t : State} (on : Bool) (h : step s = .next t) :
    step (withCgbMode on s) = .next (withCgbMode on t) :=
  step_commutes (withCgbMode on) rfl (fun _ => fetchInstr_withCgbMode on s)
    (fun _ _ _ => busRead_withCgbMode on s (addressHl s)) (fun _ r => by cases r <;> rfl) rfl h

/-- Settles O55: no bus read sees `CGB_MODE`, both effects of a step keep it, and the result names another parameter. -/
theorem cgbModeDoesNotReachTheStep : Obligations.CgbModeDoesNotReachTheStep :=
  fun s _ on ht => ⟨step_withCgbMode on ht, stepResult_congr rfl (fun _ => fetchInstr_withCgbMode on s) rfl rfl⟩

end Sys2Proof.Machine
end
